-- ==== Sys2Proof/Word.lean ====
section
/-! DEFINITION. The word types and their plainest arithmetic: the notation of spec/00_scope.md R6 to R8. -/

namespace Sys2Proof

/-- One byte of a serialised program image (20_memory.md R40). -/
abbrev Byte := BitVec 8

/-- One instruction word: every instruction is one 32-bit word (30_encoding.md R50). -/
abbrev InstrWord := BitVec 32

/-- A 16-bit index into instruction memory: the width of `pc`, `PLEN` and `imm16` (00_scope.md R5, `PCW`). -/
abbrev Index := BitVec 16

/-- `sval(v)`: the two's-complement value of an `n`-bit pattern (00_scope.md R7). -/
abbrev sval {n : Nat} (v : BitVec n) : Int := v.toInt

/-- `uval(v)`: the unsigned value of an `n`-bit pattern, as an integer (00_scope.md R7). -/
abbrev uval {n : Nat} (v : BitVec n) : Int := v.toNat

/-- `wrapN(i)`: the unique `n`-bit pattern whose unsigned value is `i mod 2^n` (00_scope.md R7). -/
abbrev wrapN (n : Nat) (i : Int) : BitVec n := BitVec.ofInt n i

end Sys2Proof
end

