-- ==== Sys2Proof/Config.lean ====
section
/-! DEFINITION. What one instance of the CORE fixes and the spec leaves open: the OPEN parameters of
spec/00_scope.md R5 and the power-on contents of instruction memory. Nothing here that is `opaque` has a body:
no proof can see its value. -/

namespace Sys2Proof

/-- How far the width of this instance exceeds the least width, 16 (00_scope.md R5: `N` is OPEN). Log 1. -/
opaque Config.extraWidth : Nat

/-- How far the stack capacity of this instance exceeds the least capacity, 2 (00_scope.md R5: `SDEPTH` is OPEN). Log 1. -/
opaque Config.extraDepth : Nat

/-- How far the width of the stack-pointer register of this instance exceeds the least width that holds its values
(00_scope.md R5: `SPW` is any width that holds them). Log 1. -/
opaque Config.extraPointerWidth : Nat

/-- `N` of this instance: any integer `N >= 16` (00_scope.md R5, 92 D1). Log 1. -/
def Config.N : Nat := Config.extraWidth + 16

/-- `SDEPTH` of this instance: any integer `SDEPTH >= 2` (00_scope.md R5, 92 D3). Log 1. -/
def Config.SDEPTH : Nat := Config.extraDepth + 2

/-- The least width whose two's-complement range holds every value from -1 to `sdepth - 1` (00_scope.md R5, `SPW`). -/
def Config.leastSPW (sdepth : Nat) : Nat := Nat.clog 2 sdepth + 1

/-- `SPW` of this instance: any width that holds every value from -1 to `SDEPTH - 1` in two's complement (00_scope.md R5,
92 D3; a parameter by 93_implementation_defined.md section 1). Log 1. -/
def Config.SPW : Nat := Config.leastSPW Config.SDEPTH + Config.extraPointerWidth

/-- The contents of instruction memory at power-on, by byte address of the serialised image: unspecified, any value
(10_state.md R25; 93_implementation_defined.md section 2). A free value: no proof can see it. Log 4. -/
opaque Config.imemPowerOn : Nat → Byte

/-- `IMEM_WORDS` of 00_scope.md R5, as bytes of the serialised image: 65536 words of 4 bytes. -/
def Config.imemBytes : Nat := 65536 * 4

/-- `PLEN_MAX` of 00_scope.md R5. -/
def Config.plenMax : Nat := 65535

end Sys2Proof
end

