-- ==== Sys2Proof/Syntax.lean ====
section
/-! DEFINITION. The instruction set as syntax: register names, opcodes, and one constructor of `Instr` for each of the
94 rows of spec/opcode_table.json (30_encoding.md R54, R57). A shape that faults by its operand count is an
instruction of its own: its effect is that fault (40_sequencer.md R72). -/

namespace Sys2Proof

/-- The eight general registers `reg_a` .. `reg_h`, indices 0 .. 7 (10_state.md R11). -/
inductive Reg where
  | a | b | c | d | e | f | g | h
deriving DecidableEq, Repr

/-- The 18 opcodes, in the order of their numbers 1 .. 18 (30_encoding.md R54). -/
inductive Opcode where
  | push | pop | add | sub | inc | dec | imul | idiv | and
  | or | xor | shl | shr | cmp | je | jma | jne | skip
deriving DecidableEq, Repr

/-- The instructions: the 94 shapes of 30_encoding.md R57 that are not ILLEGAL, in the table's order. -/
inductive Instr where
  /-- `push`, register form: push `reg_a` and shift the register file left. -/
  | pushReg
  /-- `push imm`, literal form. -/
  | pushLit (imm : Index)
  /-- `push` with two operands (`fm = 2`): class ARITY. -/
  | pushFm2
  /-- `push` with three operands (`fm = 3`): class ARITY. -/
  | pushFm3
  /-- `push` with four or more operands (`fm = 4`): class ARITY. -/
  | pushFm4
  /-- `push` with one operand that is not an integer literal (`fm = 5`): class BADLIT. -/
  | pushFm5
  /-- `pop`, its only form. -/
  | pop
  /-- `pop` with one operand (`fm = 1`): class ARITY. -/
  | popFm1
  /-- `pop` with two operands (`fm = 2`): class ARITY. -/
  | popFm2
  /-- `pop` with three operands (`fm = 3`): class ARITY. -/
  | popFm3
  /-- `pop` with four or more operands (`fm = 4`): class ARITY. -/
  | popFm4
  /-- `add`, stack form. -/
  | addStack
  /-- `add` with one operand (`fm = 1`): class INCOMPLETE. -/
  | addFm1
  /-- `add` with two operands (`fm = 2`): class INCOMPLETE. -/
  | addFm2
  /-- `add rs1 rs2 rd`, register form. -/
  | addReg (rs1 rs2 rd : Reg)
  /-- `add` with four or more operands (`fm = 4`): class ARITY. -/
  | addFm4
  /-- `sub`, stack form. -/
  | subStack
  /-- `sub` with one operand (`fm = 1`): class INCOMPLETE. -/
  | subFm1
  /-- `sub` with two operands (`fm = 2`): class INCOMPLETE. -/
  | subFm2
  /-- `sub rs1 rs2 rd`, register form. -/
  | subReg (rs1 rs2 rd : Reg)
  /-- `sub` with four or more operands (`fm = 4`): class ARITY. -/
  | subFm4
  /-- `inc`, stack form. -/
  | incStack
  /-- `inc rs1`, register form. -/
  | incReg (rs1 : Reg)
  /-- `inc` with two operands (`fm = 2`): class ARITY. -/
  | incFm2
  /-- `inc` with three operands (`fm = 3`): class ARITY. -/
  | incFm3
  /-- `inc` with four or more operands (`fm = 4`): class ARITY. -/
  | incFm4
  /-- `dec`, stack form. -/
  | decStack
  /-- `dec rs1`, register form. -/
  | decReg (rs1 : Reg)
  /-- `dec` with two operands (`fm = 2`): class ARITY. -/
  | decFm2
  /-- `dec` with three operands (`fm = 3`): class ARITY. -/
  | decFm3
  /-- `dec` with four or more operands (`fm = 4`): class ARITY. -/
  | decFm4
  /-- `imul`, stack form. -/
  | imulStack
  /-- `imul` with one operand (`fm = 1`): class INCOMPLETE. -/
  | imulFm1
  /-- `imul` with two operands (`fm = 2`): class INCOMPLETE. -/
  | imulFm2
  /-- `imul rs1 rs2 rd`, register form. -/
  | imulReg (rs1 rs2 rd : Reg)
  /-- `imul` with four or more operands (`fm = 4`): class ARITY. -/
  | imulFm4
  /-- `idiv`, stack form. -/
  | idivStack
  /-- `idiv` with one operand (`fm = 1`): class INCOMPLETE. -/
  | idivFm1
  /-- `idiv` with two operands (`fm = 2`): class INCOMPLETE. -/
  | idivFm2
  /-- `idiv rs1 rs2 rd`, register form. -/
  | idivReg (rs1 rs2 rd : Reg)
  /-- `idiv` with four or more operands (`fm = 4`): class ARITY. -/
  | idivFm4
  /-- `and`, stack form. -/
  | andStack
  /-- `and` with one operand (`fm = 1`): class INCOMPLETE. -/
  | andFm1
  /-- `and` with two operands (`fm = 2`): class INCOMPLETE. -/
  | andFm2
  /-- `and rs1 rs2 rd`, register form. -/
  | andReg (rs1 rs2 rd : Reg)
  /-- `and` with four or more operands (`fm = 4`): class ARITY. -/
  | andFm4
  /-- `or`, stack form. -/
  | orStack
  /-- `or` with one operand (`fm = 1`): class INCOMPLETE. -/
  | orFm1
  /-- `or` with two operands (`fm = 2`): class INCOMPLETE. -/
  | orFm2
  /-- `or rs1 rs2 rd`, register form. -/
  | orReg (rs1 rs2 rd : Reg)
  /-- `or` with four or more operands (`fm = 4`): class ARITY. -/
  | orFm4
  /-- `xor`, stack form. -/
  | xorStack
  /-- `xor` with one operand (`fm = 1`): class INCOMPLETE. -/
  | xorFm1
  /-- `xor` with two operands (`fm = 2`): class INCOMPLETE. -/
  | xorFm2
  /-- `xor rs1 rs2 rd`, register form. -/
  | xorReg (rs1 rs2 rd : Reg)
  /-- `xor` with four or more operands (`fm = 4`): class ARITY. -/
  | xorFm4
  /-- `shl`, stack form. -/
  | shlStack
  /-- `shl` with one operand (`fm = 1`): class INCOMPLETE. -/
  | shlFm1
  /-- `shl` with two operands (`fm = 2`): class INCOMPLETE. -/
  | shlFm2
  /-- `shl rs1 rs2 rd`, register form. -/
  | shlReg (rs1 rs2 rd : Reg)
  /-- `shl` with four or more operands (`fm = 4`): class ARITY. -/
  | shlFm4
  /-- `shr`, stack form. -/
  | shrStack
  /-- `shr` with one operand (`fm = 1`): class INCOMPLETE. -/
  | shrFm1
  /-- `shr` with two operands (`fm = 2`): class INCOMPLETE. -/
  | shrFm2
  /-- `shr rs1 rs2 rd`, register form. -/
  | shrReg (rs1 rs2 rd : Reg)
  /-- `shr` with four or more operands (`fm = 4`): class ARITY. -/
  | shrFm4
  /-- `cmp`, stack form. -/
  | cmpStack
  /-- `cmp` with one operand (`fm = 1`): class INCOMPLETE. -/
  | cmpFm1
  /-- `cmp rs1 rs2`, register form. -/
  | cmpReg (rs1 rs2 : Reg)
  /-- `cmp` with three operands (`fm = 3`): class ARITY. -/
  | cmpFm3
  /-- `cmp` with four or more operands (`fm = 4`): class ARITY. -/
  | cmpFm4
  /-- `je`, stack form. -/
  | jeStack
  /-- `je target`, literal form: a 1-based source line. -/
  | jeLit (target : Index)
  /-- `je` with two operands (`fm = 2`): class ARITY. -/
  | jeFm2
  /-- `je` with three operands (`fm = 3`): class ARITY. -/
  | jeFm3
  /-- `je` with four or more operands (`fm = 4`): class ARITY. -/
  | jeFm4
  /-- `je` with one operand that is not an integer literal (`fm = 5`): class BADLIT. -/
  | jeFm5
  /-- `jma`, stack form. -/
  | jmaStack
  /-- `jma target`, literal form: a 1-based source line. -/
  | jmaLit (target : Index)
  /-- `jma` with two operands (`fm = 2`): class ARITY. -/
  | jmaFm2
  /-- `jma` with three operands (`fm = 3`): class ARITY. -/
  | jmaFm3
  /-- `jma` with four or more operands (`fm = 4`): class ARITY. -/
  | jmaFm4
  /-- `jma` with one operand that is not an integer literal (`fm = 5`): class BADLIT. -/
  | jmaFm5
  /-- `jne`, stack form. -/
  | jneStack
  /-- `jne target`, literal form: a 1-based source line. -/
  | jneLit (target : Index)
  /-- `jne` with two operands (`fm = 2`): class ARITY. -/
  | jneFm2
  /-- `jne` with three operands (`fm = 3`): class ARITY. -/
  | jneFm3
  /-- `jne` with four or more operands (`fm = 4`): class ARITY. -/
  | jneFm4
  /-- `jne` with one operand that is not an integer literal (`fm = 5`): class BADLIT. -/
  | jneFm5
  /-- `skip`, its only form. -/
  | skip
  /-- `skip` with one operand (`fm = 1`): class ARITY. -/
  | skipFm1
  /-- `skip` with two operands (`fm = 2`): class ARITY. -/
  | skipFm2
  /-- `skip` with three operands (`fm = 3`): class ARITY. -/
  | skipFm3
  /-- `skip` with four or more operands (`fm = 4`): class ARITY. -/
  | skipFm4
deriving DecidableEq, Repr

end Sys2Proof
end

