-- ==== Sys2Proof/WellFormed.lean ====
section
/-! DEFINITION. Which terms of `Instr` some instruction word stands for. Register operands and literals carry their
widths in their types, so the one check left is 30_encoding.md R56 and R59: a literal jump names a source line from
1 to 65535, never 0. -/

namespace Sys2Proof

/-- An instruction is well formed when some legal word encodes it (30_encoding.md R56, R58, R59). -/
def Instr.wellFormed : Instr → Bool
  | .jeLit target => target != 0
  | .jmaLit target => target != 0
  | .jneLit target => target != 0
  | .pushReg => true
  | .pushLit _ => true
  | .pushFm2 => true
  | .pushFm3 => true
  | .pushFm4 => true
  | .pushFm5 => true
  | .pop => true
  | .popFm1 => true
  | .popFm2 => true
  | .popFm3 => true
  | .popFm4 => true
  | .addStack => true
  | .addFm1 => true
  | .addFm2 => true
  | .addReg _ _ _ => true
  | .addFm4 => true
  | .subStack => true
  | .subFm1 => true
  | .subFm2 => true
  | .subReg _ _ _ => true
  | .subFm4 => true
  | .incStack => true
  | .incReg _ => true
  | .incFm2 => true
  | .incFm3 => true
  | .incFm4 => true
  | .decStack => true
  | .decReg _ => true
  | .decFm2 => true
  | .decFm3 => true
  | .decFm4 => true
  | .imulStack => true
  | .imulFm1 => true
  | .imulFm2 => true
  | .imulReg _ _ _ => true
  | .imulFm4 => true
  | .idivStack => true
  | .idivFm1 => true
  | .idivFm2 => true
  | .idivReg _ _ _ => true
  | .idivFm4 => true
  | .andStack => true
  | .andFm1 => true
  | .andFm2 => true
  | .andReg _ _ _ => true
  | .andFm4 => true
  | .orStack => true
  | .orFm1 => true
  | .orFm2 => true
  | .orReg _ _ _ => true
  | .orFm4 => true
  | .xorStack => true
  | .xorFm1 => true
  | .xorFm2 => true
  | .xorReg _ _ _ => true
  | .xorFm4 => true
  | .shlStack => true
  | .shlFm1 => true
  | .shlFm2 => true
  | .shlReg _ _ _ => true
  | .shlFm4 => true
  | .shrStack => true
  | .shrFm1 => true
  | .shrFm2 => true
  | .shrReg _ _ _ => true
  | .shrFm4 => true
  | .cmpStack => true
  | .cmpFm1 => true
  | .cmpReg _ _ => true
  | .cmpFm3 => true
  | .cmpFm4 => true
  | .jeStack => true
  | .jeFm2 => true
  | .jeFm3 => true
  | .jeFm4 => true
  | .jeFm5 => true
  | .jmaStack => true
  | .jmaFm2 => true
  | .jmaFm3 => true
  | .jmaFm4 => true
  | .jmaFm5 => true
  | .jneStack => true
  | .jneFm2 => true
  | .jneFm3 => true
  | .jneFm4 => true
  | .jneFm5 => true
  | .skip => true
  | .skipFm1 => true
  | .skipFm2 => true
  | .skipFm3 => true
  | .skipFm4 => true

end Sys2Proof
end

