-- ==== Sys2Proof/Decode.lean ====
section
/-! DEFINITION. The instruction decoder and its encoder (spec/30_encoding.md R50 to R61; 10_state.md R27): fields, formats,
the class table, the total decode function on words and on serialised bytes, and the encoder. -/

namespace Sys2Proof

/-! ## Fields (R51) -/

/-- `op = iw[4:0]` (R51). -/
def opField (w : InstrWord) : BitVec 5 := w.extractLsb' 0 5
/-- `fm = iw[7:5]` (R51). -/
def fmField (w : InstrWord) : BitVec 3 := w.extractLsb' 5 3
/-- `rs1 = iw[10:8]` (R51). -/
def rs1Field (w : InstrWord) : BitVec 3 := w.extractLsb' 8 3
/-- `rs2 = iw[13:11]` (R51). -/
def rs2Field (w : InstrWord) : BitVec 3 := w.extractLsb' 11 3
/-- `rd = iw[16:14]` (R51). -/
def rdField (w : InstrWord) : BitVec 3 := w.extractLsb' 14 3
/-- `imm16 = iw[31:16]` (R51). -/
def imm16Field (w : InstrWord) : Index := w.extractLsb' 16 16

/-- The register a 3-bit field names: every value names one (R55). -/
def Reg.ofField (f : BitVec 3) : Reg :=
  match f.toNat with
  | 0 => .a
  | 1 => .b
  | 2 => .c
  | 3 => .d
  | 4 => .e
  | 5 => .f
  | 6 => .g
  | _ => .h

/-- The index of a register, as the 3-bit field that names it (R55, 10_state.md R11). -/
def Reg.toField : Reg → BitVec 3
  | .a => 0
  | .b => 1
  | .c => 2
  | .d => 3
  | .e => 4
  | .f => 5
  | .g => 6
  | .h => 7

/-- The opcode a number stands for; 0 and 19 to 31 are reserved (R54). -/
def Opcode.ofField (f : BitVec 5) : Option Opcode :=
  match f.toNat with
  | 1 => some .push
  | 2 => some .pop
  | 3 => some .add
  | 4 => some .sub
  | 5 => some .inc
  | 6 => some .dec
  | 7 => some .imul
  | 8 => some .idiv
  | 9 => some .and
  | 10 => some .or
  | 11 => some .xor
  | 12 => some .shl
  | 13 => some .shr
  | 14 => some .cmp
  | 15 => some .je
  | 16 => some .jma
  | 17 => some .jne
  | 18 => some .skip
  | _ => none

/-- The number of an opcode (R54). -/
def Opcode.toField : Opcode → BitVec 5
  | .push => 1
  | .pop => 2
  | .add => 3
  | .sub => 4
  | .inc => 5
  | .dec => 6
  | .imul => 7
  | .idiv => 8
  | .and => 9
  | .or => 10
  | .xor => 11
  | .shl => 12
  | .shr => 13
  | .cmp => 14
  | .je => 15
  | .jma => 16
  | .jne => 17
  | .skip => 18

/-- The three jumps, opcodes 15 to 17 (R58). -/
def Opcode.isJump : Opcode → Bool
  | .je | .jma | .jne => true
  | .push | .pop | .add | .sub | .inc | .dec | .imul | .idiv | .and | .or | .xor | .shl | .shr | .cmp | .skip => false

/-! ## Formats and classes (R52, R57) -/

/-- The five formats (R52). -/
inductive Format where
  | N | R1 | R2 | R3 | I
deriving DecidableEq, Repr

/-- The decode classes (R57). -/
inductive DecodeClass where
  | exec | incomplete | arity | badlit | illegal
deriving DecidableEq, Repr

/-- The must-be-zero mask of a format (R58). -/
def Format.mbz : Format → InstrWord
  | .N => 0xFFFFFF00
  | .R1 => 0xFFFFF800
  | .R2 => 0xFFFFC000
  | .R3 => 0xFFFE0000
  | .I => 0x0000FF00

/-- The row of the class table (R57) for a legal opcode: format and class by form number. -/
def classRow (o : Opcode) (fm : Nat) : Format × DecodeClass :=
  match o with
  | .push | .je | .jma | .jne =>
    match fm with
    | 0 => (.N, .exec)
    | 1 => (.I, .exec)
    | 2 | 3 | 4 => (.N, .arity)
    | 5 => (.N, .badlit)
    | _ => (.N, .illegal)
  | .pop | .skip =>
    match fm with
    | 0 => (.N, .exec)
    | 1 | 2 | 3 | 4 => (.N, .arity)
    | _ => (.N, .illegal)
  | .add | .sub | .imul | .idiv | .and | .or | .xor | .shl | .shr =>
    match fm with
    | 0 => (.N, .exec)
    | 1 | 2 => (.N, .incomplete)
    | 3 => (.R3, .exec)
    | 4 => (.N, .arity)
    | _ => (.N, .illegal)
  | .inc | .dec =>
    match fm with
    | 0 => (.N, .exec)
    | 1 => (.R1, .exec)
    | 2 | 3 | 4 => (.N, .arity)
    | _ => (.N, .illegal)
  | .cmp =>
    match fm with
    | 0 => (.N, .exec)
    | 1 => (.N, .incomplete)
    | 2 => (.R2, .exec)
    | 3 | 4 => (.N, .arity)
    | _ => (.N, .illegal)

/-- `ClassTable(op, fm)` on the fields of a word (R57); a reserved opcode number is ILLEGAL. -/
def classTable (op : BitVec 5) (fm : BitVec 3) : Format × DecodeClass :=
  match Opcode.ofField op with
  | none => (.N, .illegal)
  | some o => classRow o fm.toNat

/-- Whether a word is a literal jump to source line 0: format I, a jump opcode and `imm16 = 0` (R58). -/
def zeroTarget (w : InstrWord) : Bool :=
  match Opcode.ofField (opField w) with
  | none => false
  | some o => o.isJump && (classRow o (fmField w).toNat).1 == .I && imm16Field w == 0

/-- `Decode(iw)` of R58: the class of every 32-bit word. -/
def decodeClass (w : InstrWord) : DecodeClass :=
  let row := classTable (opField w) (fmField w)
  if row.2 = .illegal then .illegal
  else if w &&& row.1.mbz ≠ 0 then .illegal
  else if zeroTarget w then .illegal
  else row.2

/-! ## The decoder -/

/-- Why a word is an illegal encoding, one constructor per line of R59. A word rejected here is no instruction; a step or
a host `Execute` that meets it raises ILLEGAL_INSTRUCTION. Log 2. -/
inductive Reject where
  /-- `op` is 0 or 19 to 31. -/
  | reservedOpcode
  /-- `fm` is 6 or 7, or 5 with an opcode that takes no literal. -/
  | reservedForm
  /-- A 1 bit outside the fields of the word's format. -/
  | strayBits
  /-- A jump in format I with `imm16 = 0`. -/
  | zeroTarget
  /-- Not four bytes: no instruction has another length (R50). -/
  | wrongLength
deriving DecidableEq, Repr

/-- The instruction a word of opcode `o` and form `fm` stands for, its operands read from the fields of the format that
R57 gives that shape; `none` for the shapes of class ILLEGAL. -/
def build (o : Opcode) (fm : Nat) (w : InstrWord) : Option Instr :=
  match o with
  | .push =>
    match fm with
    | 0 => some .pushReg
    | 1 => some (.pushLit (imm16Field w))
    | 2 => some .pushFm2
    | 3 => some .pushFm3
    | 4 => some .pushFm4
    | 5 => some .pushFm5
    | _ => none
  | .pop =>
    match fm with
    | 0 => some .pop
    | 1 => some .popFm1
    | 2 => some .popFm2
    | 3 => some .popFm3
    | 4 => some .popFm4
    | _ => none
  | .add =>
    match fm with
    | 0 => some .addStack
    | 1 => some .addFm1
    | 2 => some .addFm2
    | 3 => some (.addReg (Reg.ofField (rs1Field w)) (Reg.ofField (rs2Field w)) (Reg.ofField (rdField w)))
    | 4 => some .addFm4
    | _ => none
  | .sub =>
    match fm with
    | 0 => some .subStack
    | 1 => some .subFm1
    | 2 => some .subFm2
    | 3 => some (.subReg (Reg.ofField (rs1Field w)) (Reg.ofField (rs2Field w)) (Reg.ofField (rdField w)))
    | 4 => some .subFm4
    | _ => none
  | .inc =>
    match fm with
    | 0 => some .incStack
    | 1 => some (.incReg (Reg.ofField (rs1Field w)))
    | 2 => some .incFm2
    | 3 => some .incFm3
    | 4 => some .incFm4
    | _ => none
  | .dec =>
    match fm with
    | 0 => some .decStack
    | 1 => some (.decReg (Reg.ofField (rs1Field w)))
    | 2 => some .decFm2
    | 3 => some .decFm3
    | 4 => some .decFm4
    | _ => none
  | .imul =>
    match fm with
    | 0 => some .imulStack
    | 1 => some .imulFm1
    | 2 => some .imulFm2
    | 3 => some (.imulReg (Reg.ofField (rs1Field w)) (Reg.ofField (rs2Field w)) (Reg.ofField (rdField w)))
    | 4 => some .imulFm4
    | _ => none
  | .idiv =>
    match fm with
    | 0 => some .idivStack
    | 1 => some .idivFm1
    | 2 => some .idivFm2
    | 3 => some (.idivReg (Reg.ofField (rs1Field w)) (Reg.ofField (rs2Field w)) (Reg.ofField (rdField w)))
    | 4 => some .idivFm4
    | _ => none
  | .and =>
    match fm with
    | 0 => some .andStack
    | 1 => some .andFm1
    | 2 => some .andFm2
    | 3 => some (.andReg (Reg.ofField (rs1Field w)) (Reg.ofField (rs2Field w)) (Reg.ofField (rdField w)))
    | 4 => some .andFm4
    | _ => none
  | .or =>
    match fm with
    | 0 => some .orStack
    | 1 => some .orFm1
    | 2 => some .orFm2
    | 3 => some (.orReg (Reg.ofField (rs1Field w)) (Reg.ofField (rs2Field w)) (Reg.ofField (rdField w)))
    | 4 => some .orFm4
    | _ => none
  | .xor =>
    match fm with
    | 0 => some .xorStack
    | 1 => some .xorFm1
    | 2 => some .xorFm2
    | 3 => some (.xorReg (Reg.ofField (rs1Field w)) (Reg.ofField (rs2Field w)) (Reg.ofField (rdField w)))
    | 4 => some .xorFm4
    | _ => none
  | .shl =>
    match fm with
    | 0 => some .shlStack
    | 1 => some .shlFm1
    | 2 => some .shlFm2
    | 3 => some (.shlReg (Reg.ofField (rs1Field w)) (Reg.ofField (rs2Field w)) (Reg.ofField (rdField w)))
    | 4 => some .shlFm4
    | _ => none
  | .shr =>
    match fm with
    | 0 => some .shrStack
    | 1 => some .shrFm1
    | 2 => some .shrFm2
    | 3 => some (.shrReg (Reg.ofField (rs1Field w)) (Reg.ofField (rs2Field w)) (Reg.ofField (rdField w)))
    | 4 => some .shrFm4
    | _ => none
  | .cmp =>
    match fm with
    | 0 => some .cmpStack
    | 1 => some .cmpFm1
    | 2 => some (.cmpReg (Reg.ofField (rs1Field w)) (Reg.ofField (rs2Field w)))
    | 3 => some .cmpFm3
    | 4 => some .cmpFm4
    | _ => none
  | .je =>
    match fm with
    | 0 => some .jeStack
    | 1 => some (.jeLit (imm16Field w))
    | 2 => some .jeFm2
    | 3 => some .jeFm3
    | 4 => some .jeFm4
    | 5 => some .jeFm5
    | _ => none
  | .jma =>
    match fm with
    | 0 => some .jmaStack
    | 1 => some (.jmaLit (imm16Field w))
    | 2 => some .jmaFm2
    | 3 => some .jmaFm3
    | 4 => some .jmaFm4
    | 5 => some .jmaFm5
    | _ => none
  | .jne =>
    match fm with
    | 0 => some .jneStack
    | 1 => some (.jneLit (imm16Field w))
    | 2 => some .jneFm2
    | 3 => some .jneFm3
    | 4 => some .jneFm4
    | 5 => some .jneFm5
    | _ => none
  | .skip =>
    match fm with
    | 0 => some .skip
    | 1 => some .skipFm1
    | 2 => some .skipFm2
    | 3 => some .skipFm3
    | 4 => some .skipFm4
    | _ => none

/-- The decoder, total on every 32-bit word (R58, R59, R61): the instruction a legal word stands for, or why the word is
illegal, checked in the order of R58. It reads the word alone. -/
def decode (w : InstrWord) : Except Reject Instr :=
  match Opcode.ofField (opField w) with
  | none => .error .reservedOpcode
  | some o =>
    if (classRow o (fmField w).toNat).2 = .illegal then .error .reservedForm
    else if w &&& (classRow o (fmField w).toNat).1.mbz ≠ 0 then .error .strayBits
    else if zeroTarget w then .error .zeroTarget
    else
      match build o (fmField w).toNat w with
      | none => .error .reservedForm
      | some i => .ok i

/-! ## Serialised words (20_memory.md R40) -/

/-- The word of four bytes, least significant byte first (20_memory.md R40, 92 D24). -/
def wordOfBytes (b0 b1 b2 b3 : Byte) : InstrWord := b3 ++ b2 ++ b1 ++ b0

/-- Byte `k` of a word, byte 0 the least significant (20_memory.md R40, 92 D24). -/
def byteOfWord (w : InstrWord) (k : Nat) : Byte := w.extractLsb' (8 * k) 8

/-- A word as its four bytes, least significant byte first (20_memory.md R40, 92 D24). -/
def bytesOfWord (w : InstrWord) : List Byte :=
  [byteOfWord w 0, byteOfWord w 1, byteOfWord w 2, byteOfWord w 3]

/-- The decoder on a serialised instruction: exactly four bytes make one (R50). -/
def decodeBytes : List Byte → Except Reject Instr
  | [b0, b1, b2, b3] => decode (wordOfBytes b0 b1 b2 b3)
  | _ => .error .wrongLength

/-- The instruction word of a row of the opcode table: its low `nbits` bits are those of `w`, the others 0. -/
def tableWord (nbits w : Nat) : InstrWord := BitVec.ofNat 32 (w % 2 ^ nbits)

/-- The instruction this decoder reads from an instruction whose bits are `w`, bit 0 the least significant. -/
def decodeTableWord (nbits w : Nat) : Option Instr :=
  match decodeBytes (bytesOfWord (tableWord nbits w)) with
  | .ok i => some i
  | .error _ => none

/-! ## The encoder -/

/-- A word from the 24 bits above `fm`, the form and the opcode (R51). -/
def assembleFields (payload : BitVec 24) (o : Opcode) (fm : Nat) : InstrWord :=
  payload ++ BitVec.ofNat 3 fm ++ o.toField

/-- Format N: no operand field (R52). -/
def encodeN (o : Opcode) (fm : Nat) : InstrWord := assembleFields 0 o fm

/-- Format R1: `rs1` (R52). -/
def encodeR1 (o : Opcode) (fm : Nat) (rs1 : Reg) : InstrWord :=
  assembleFields (0#21 ++ rs1.toField) o fm

/-- Format R2: `rs1`, `rs2` (R52). -/
def encodeR2 (o : Opcode) (fm : Nat) (rs1 rs2 : Reg) : InstrWord :=
  assembleFields (0#18 ++ rs2.toField ++ rs1.toField) o fm

/-- Format R3: `rs1`, `rs2`, `rd` (R52). -/
def encodeR3 (o : Opcode) (fm : Nat) (rs1 rs2 rd : Reg) : InstrWord :=
  assembleFields (0#15 ++ rd.toField ++ rs2.toField ++ rs1.toField) o fm

/-- Format I: `imm16` (R52). -/
def encodeI (o : Opcode) (fm : Nat) (imm : Index) : InstrWord :=
  assembleFields (imm ++ 0#8) o fm

/-- The word of an instruction: its opcode number, its form and its operand fields in the places of R51, every other bit
0 (30_encoding.md R51 to R54). -/
def encode : Instr → InstrWord
  | .pushReg => encodeN .push 0
  | .pushLit imm => encodeI .push 1 imm
  | .pushFm2 => encodeN .push 2
  | .pushFm3 => encodeN .push 3
  | .pushFm4 => encodeN .push 4
  | .pushFm5 => encodeN .push 5
  | .pop => encodeN .pop 0
  | .popFm1 => encodeN .pop 1
  | .popFm2 => encodeN .pop 2
  | .popFm3 => encodeN .pop 3
  | .popFm4 => encodeN .pop 4
  | .addStack => encodeN .add 0
  | .addFm1 => encodeN .add 1
  | .addFm2 => encodeN .add 2
  | .addReg rs1 rs2 rd => encodeR3 .add 3 rs1 rs2 rd
  | .addFm4 => encodeN .add 4
  | .subStack => encodeN .sub 0
  | .subFm1 => encodeN .sub 1
  | .subFm2 => encodeN .sub 2
  | .subReg rs1 rs2 rd => encodeR3 .sub 3 rs1 rs2 rd
  | .subFm4 => encodeN .sub 4
  | .incStack => encodeN .inc 0
  | .incReg rs1 => encodeR1 .inc 1 rs1
  | .incFm2 => encodeN .inc 2
  | .incFm3 => encodeN .inc 3
  | .incFm4 => encodeN .inc 4
  | .decStack => encodeN .dec 0
  | .decReg rs1 => encodeR1 .dec 1 rs1
  | .decFm2 => encodeN .dec 2
  | .decFm3 => encodeN .dec 3
  | .decFm4 => encodeN .dec 4
  | .imulStack => encodeN .imul 0
  | .imulFm1 => encodeN .imul 1
  | .imulFm2 => encodeN .imul 2
  | .imulReg rs1 rs2 rd => encodeR3 .imul 3 rs1 rs2 rd
  | .imulFm4 => encodeN .imul 4
  | .idivStack => encodeN .idiv 0
  | .idivFm1 => encodeN .idiv 1
  | .idivFm2 => encodeN .idiv 2
  | .idivReg rs1 rs2 rd => encodeR3 .idiv 3 rs1 rs2 rd
  | .idivFm4 => encodeN .idiv 4
  | .andStack => encodeN .and 0
  | .andFm1 => encodeN .and 1
  | .andFm2 => encodeN .and 2
  | .andReg rs1 rs2 rd => encodeR3 .and 3 rs1 rs2 rd
  | .andFm4 => encodeN .and 4
  | .orStack => encodeN .or 0
  | .orFm1 => encodeN .or 1
  | .orFm2 => encodeN .or 2
  | .orReg rs1 rs2 rd => encodeR3 .or 3 rs1 rs2 rd
  | .orFm4 => encodeN .or 4
  | .xorStack => encodeN .xor 0
  | .xorFm1 => encodeN .xor 1
  | .xorFm2 => encodeN .xor 2
  | .xorReg rs1 rs2 rd => encodeR3 .xor 3 rs1 rs2 rd
  | .xorFm4 => encodeN .xor 4
  | .shlStack => encodeN .shl 0
  | .shlFm1 => encodeN .shl 1
  | .shlFm2 => encodeN .shl 2
  | .shlReg rs1 rs2 rd => encodeR3 .shl 3 rs1 rs2 rd
  | .shlFm4 => encodeN .shl 4
  | .shrStack => encodeN .shr 0
  | .shrFm1 => encodeN .shr 1
  | .shrFm2 => encodeN .shr 2
  | .shrReg rs1 rs2 rd => encodeR3 .shr 3 rs1 rs2 rd
  | .shrFm4 => encodeN .shr 4
  | .cmpStack => encodeN .cmp 0
  | .cmpFm1 => encodeN .cmp 1
  | .cmpReg rs1 rs2 => encodeR2 .cmp 2 rs1 rs2
  | .cmpFm3 => encodeN .cmp 3
  | .cmpFm4 => encodeN .cmp 4
  | .jeStack => encodeN .je 0
  | .jeLit target => encodeI .je 1 target
  | .jeFm2 => encodeN .je 2
  | .jeFm3 => encodeN .je 3
  | .jeFm4 => encodeN .je 4
  | .jeFm5 => encodeN .je 5
  | .jmaStack => encodeN .jma 0
  | .jmaLit target => encodeI .jma 1 target
  | .jmaFm2 => encodeN .jma 2
  | .jmaFm3 => encodeN .jma 3
  | .jmaFm4 => encodeN .jma 4
  | .jmaFm5 => encodeN .jma 5
  | .jneStack => encodeN .jne 0
  | .jneLit target => encodeI .jne 1 target
  | .jneFm2 => encodeN .jne 2
  | .jneFm3 => encodeN .jne 3
  | .jneFm4 => encodeN .jne 4
  | .jneFm5 => encodeN .jne 5
  | .skip => encodeN .skip 0
  | .skipFm1 => encodeN .skip 1
  | .skipFm2 => encodeN .skip 2
  | .skipFm3 => encodeN .skip 3
  | .skipFm4 => encodeN .skip 4

/-- The serialised bytes of an instruction (20_memory.md R40). -/
def encodeBytes (i : Instr) : List Byte := bytesOfWord (encode i)

end Sys2Proof
end

