-- ==== Sys2Proof/Machine/State.lean ====
section
/-! DEFINITION. The architectural state of the CORE as plain data (spec/10_state.md R11 to R26) and the state after
reset (spec/70_reset_and_hazards.md R127). -/

namespace Sys2Proof.Machine

/-- The register file: eight registers of `n` bits, `x[0]` to `x[7]` under their names (10_state.md R11). -/
structure RegFile (n : Nat) where
  reg_a : BitVec n
  reg_b : BitVec n
  reg_c : BitVec n
  reg_d : BitVec n
  reg_e : BitVec n
  reg_f : BitVec n
  reg_g : BitVec n
  reg_h : BitVec n
deriving DecidableEq, Repr

/-- The fault causes of the CORE (60_exceptions.md R112); their codes are `FaultCause.code`. -/
inductive FaultCause where
  /-- Code 1: the word is illegal. -/
  | illegalInstruction
  /-- Code 2: a literal operand that is not an integer. -/
  | invalidOperand
  /-- Code 3: some but not all operands of a register form. -/
  | incompleteOperands
  /-- Code 4: more operands than the handler takes. -/
  | arityError
  /-- Code 5: fewer live stack cells than the instruction reads. -/
  | stackUnderflow
  /-- Code 6: a push onto a full stack. -/
  | stackOverflow
  /-- Code 7: a zero divisor. -/
  | divisionByZero
  /-- Code 8: a stack-form jump whose target lies outside the program. -/
  | jumpOutOfBounds
  /-- Code 9: a negative shift amount. -/
  | negativeShift
deriving DecidableEq, Repr

/-- The values the register `STATUS` takes: its `state` field, with the `cause` field inside FAULTED, the one state in
which it is not 0 (10_state.md R23). The 16-bit word is `State.statusWord`. Log 5. -/
inductive Status where
  | idle
  | running
  | halted
  | faulted (cause : FaultCause)
deriving DecidableEq, Repr

/-- Instruction memory as the bytes that have been written: pairs (address in the serialised image, byte), addresses
strictly rising (`Memory.wf`). Word `i` is the bytes `4*i` to `4*i+3`, least significant first (20_memory.md R40).
What an address with no pair reads as is `readByte`. Log 4. -/
abbrev Memory := List Host.Cell

/-- The architectural state (10_state.md R26), with the three parameters of the instance it belongs to. -/
structure State where
  /-- The width of registers and stack cells (00_scope.md R5). No step changes it. Log 1. -/
  N : Nat
  /-- The capacity of the operand stack (00_scope.md R5). No step changes it. Log 1. -/
  SDEPTH : Nat
  /-- The width of the stack-pointer register (00_scope.md R5). No step changes it. Log 1. -/
  SPW : Nat
  /-- The register file (R11). -/
  x : RegFile N
  /-- The live cells of the operand stack, the top cell first: `S[SP]`, `S[SP-1]`, .., `S[0]` (R15, R17). Log 3. -/
  stack : List (BitVec N)
  /-- The `zero` flag (R19). -/
  Z : Bool
  /-- The `positive` flag (R19). -/
  P : Bool
  /-- The program counter, a word index (R21). -/
  pc : Index
  /-- The program-length register (R22). -/
  PLEN : Index
  /-- The status register (R23). -/
  STATUS : Status
  /-- Instruction memory (R25). -/
  IMEM : Memory
deriving DecidableEq, Repr

/-- The model's own faults: there is none. Everything the spec calls a fault is an architectural outcome, a next state
with `STATUS` FAULTED (60_exceptions.md R111, R113, R115), so no step of this machine ends outside a next state. Log 6. -/
inductive Fault where
deriving DecidableEq, Repr

/-- What the model declines to give a meaning to. No constructor is ever answered by `step` or by the meaning of an
instruction; all but the first answer a use of the host interface that the spec forbids. -/
inductive Refusal where
  /-- An instruction without a meaning. Raised by no arm of this model; safe. -/
  | notModelled (mnemonic : String)
  /-- A host operation outside IDLE, which the host must not issue (10_state.md R34, 92 D30). Raised by `hostOp`; safe:
  nothing can be proved of what follows it. -/
  | hostOpOutsideIdle
  /-- A host read of a dead stack cell, whose content is not defined (10_state.md R35). Raised by `readCell`; safe. -/
  | deadCellRead
  /-- A name that is not one of `reg_a` .. `reg_h` (10_state.md R35). Raised by `getRegister`; safe. -/
  | unknownRegister
  /-- A program of more than 65535 words, which cannot be loaded (10_state.md R22, 93 section 4). Raised by `boot`; safe. -/
  | programTooLong
deriving DecidableEq, Repr

/-- What an operation of the machine answers. -/
abbrev Result := Host.Outcome State Fault Refusal

/-- A register file of zeros: its reset value (10_state.md R11). -/
def RegFile.zero (n : Nat) : RegFile n := ⟨0, 0, 0, 0, 0, 0, 0, 0⟩

/-- The state right after a power-on reset of an instance with the given parameters (70_reset_and_hazards.md R127):
instruction memory holds nothing that has been written. -/
def State.resetOf (n sdepth spw : Nat) : State where
  N := n
  SDEPTH := sdepth
  SPW := spw
  x := RegFile.zero n
  stack := []
  Z := false
  P := false
  pc := 0
  PLEN := 0
  STATUS := .idle
  IMEM := []

/-- The machine right after reset (70_reset_and_hazards.md R127), for this instance's parameters (log 1). -/
def State.reset : State := State.resetOf Config.N Config.SDEPTH Config.SPW

end Sys2Proof.Machine
end

