-- ==== Sys2Proof/Machine/Memory.lean ====
section
/-! DEFINITION. Instruction memory: the read and write of one byte of the serialised image and of one word, and the
canonical form of the list that holds it (spec/10_state.md R25; spec/20_memory.md R37, R40; log 4). -/

namespace Sys2Proof.Machine

/-- The canonical form: addresses strictly rising, every address inside the 65536 words of `IMEM`. -/
abbrev Memory.wf (m : Memory) : Prop :=
  m.Pairwise (fun p q => p.1 < q.1) ∧ ∀ p ∈ m, p.1 < Config.imemBytes

/-- The byte written at an address, if one has been. -/
def Memory.lookup : Memory → Nat → Option Byte
  | [], _ => none
  | (k, v) :: m, a => if k = a then some v else Memory.lookup m a

/-- Write one byte, keeping the addresses strictly rising. -/
def Memory.write : Memory → Nat → Byte → Memory
  | [], a, b => [(a, b)]
  | (k, v) :: m, a, b =>
    if a < k then (a, b) :: (k, v) :: m
    else if a = k then (a, b) :: m
    else (k, v) :: Memory.write m a b

/-- Read one byte: what was last written there, or the power-on content, which is any value (10_state.md R25). -/
def Memory.readByte (m : Memory) (a : Nat) : Byte :=
  match m.lookup a with
  | some b => b
  | none => Config.imemPowerOn a

/-- `IMemRead(i)`: the 32-bit word at index `i` (00_scope.md R9, 20_memory.md R42). -/
def Memory.readWord (m : Memory) (i : Index) : InstrWord :=
  wordOfBytes (m.readByte (4 * i.toNat)) (m.readByte (4 * i.toNat + 1))
    (m.readByte (4 * i.toNat + 2)) (m.readByte (4 * i.toNat + 3))

/-- `IMEM[i] <- w` (10_state.md R34). -/
def Memory.writeWord (m : Memory) (i : Index) (w : InstrWord) : Memory :=
  (((m.write (4 * i.toNat) (byteOfWord w 0)).write (4 * i.toNat + 1) (byteOfWord w 1)).write
    (4 * i.toNat + 2) (byteOfWord w 2)).write (4 * i.toNat + 3) (byteOfWord w 3)

end Sys2Proof.Machine
end

