-- ==== Sys2Proof/Machine/Ops.lean ====
section
/-! DEFINITION. The named operations over registers, stack and status that the meanings share: the register file
(spec/10_state.md R13, R14, R28), the operand stack controller (R15 to R18, R29), the status register (R23) and taking a
fault (spec/60_exceptions.md R111 to R116). -/

namespace Sys2Proof.Machine

/-! ## The register file (R28) -/

/-- `x[r]` (00_scope.md R9). -/
def RegFile.get {n : Nat} (f : RegFile n) : Reg → BitVec n
  | .a => f.reg_a
  | .b => f.reg_b
  | .c => f.reg_c
  | .d => f.reg_d
  | .e => f.reg_e
  | .f => f.reg_f
  | .g => f.reg_g
  | .h => f.reg_h

/-- `x[r] <- v` (00_scope.md R9). -/
def RegFile.set {n : Nat} (f : RegFile n) (r : Reg) (v : BitVec n) : RegFile n :=
  match r with
  | .a => { f with reg_a := v }
  | .b => { f with reg_b := v }
  | .c => { f with reg_c := v }
  | .d => { f with reg_d := v }
  | .e => { f with reg_e := v }
  | .f => { f with reg_f := v }
  | .g => { f with reg_g := v }
  | .h => { f with reg_h := v }

/-- `RegShiftLeft()`: slot `i` becomes old slot `i+1`, slot 7 becomes 0, all together (R13). -/
def RegFile.shiftLeft {n : Nat} (f : RegFile n) : RegFile n :=
  ⟨f.reg_b, f.reg_c, f.reg_d, f.reg_e, f.reg_f, f.reg_g, f.reg_h, 0⟩

/-- `RegShiftRight(v)`: slot 0 becomes `v`, slot `i` becomes old slot `i-1`, old slot 7 is lost (R14). -/
def RegFile.shiftRight {n : Nat} (f : RegFile n) (v : BitVec n) : RegFile n :=
  ⟨v, f.reg_a, f.reg_b, f.reg_c, f.reg_d, f.reg_e, f.reg_f, f.reg_g⟩

/-- The state with another register file. -/
def State.withRegs (s : State) (f : RegFile s.N) : State := { s with x := f }

/-! ## The operand stack controller (R29) -/

/-- `depth`: the number of live cells (00_scope.md R9). -/
def State.depth (s : State) : Nat := s.stack.length

/-- `SP = depth - 1`: the index of the top cell, -1 when the stack is empty (R16). -/
def State.SP (s : State) : Int := (s.depth : Int) - 1

/-- The register that holds `SP`: its value as a two's-complement pattern of `SPW` bits (00_scope.md R5). Log 3. -/
def State.pointerRegister (s : State) : BitVec s.SPW := wrapN s.SPW s.SP

/-- The live cells `S[0]`, `S[1]`, .., `S[SP]`, bottom first (R15). -/
def State.liveCells (s : State) : List (BitVec s.N) := s.stack.reverse

/-- `S[i]`, for a live cell (R15, R17). -/
def State.cell (s : State) (i : Nat) : Option (BitVec s.N) := s.liveCells[i]?

/-- `full = (depth = SDEPTH)` (R29); the test of `push` for STACK_OVERFLOW (R18). -/
def State.stackFull (s : State) : Bool := s.depth == s.SDEPTH

/-- `PUSH(v)`: `S[SP+1] <- v; SP <- SP+1` (R29). -/
def State.pushCell (s : State) (v : BitVec s.N) : State := { s with stack := v :: s.stack }

/-- `POP`: `SP <- SP-1`; the value it returns is `State.stackTop` (R29). -/
def State.popCell (s : State) : State := { s with stack := s.stack.tail }

/-- `COMBINE(v)`: `S[SP-1] <- v; SP <- SP-1` (R29). -/
def State.combine (s : State) (v : BitVec s.N) : State := { s with stack := v :: s.stack.drop 2 }

/-- `WTOP(v)`: `S[SP] <- v` (R29). -/
def State.writeTop (s : State) (v : BitVec s.N) : State := { s with stack := v :: s.stack.tail }

/-! ## The status register (R23) -/

/-- The code of a fault cause (60_exceptions.md R112). -/
def FaultCause.code : FaultCause → BitVec 4
  | .illegalInstruction => 1
  | .invalidOperand => 2
  | .incompleteOperands => 3
  | .arityError => 4
  | .stackUnderflow => 5
  | .stackOverflow => 6
  | .divisionByZero => 7
  | .jumpOutOfBounds => 8
  | .negativeShift => 9

/-- `STATUS.state` (R23). -/
def Status.stateField : Status → BitVec 2
  | .idle => 0
  | .running => 1
  | .halted => 2
  | .faulted _ => 3

/-- `STATUS.cause` (R23): 0 when the state is not FAULTED. -/
def Status.causeField : Status → BitVec 4
  | .idle => 0
  | .running => 0
  | .halted => 0
  | .faulted c => c.code

/-- The 16-bit word of `STATUS`: `state` in bits 1:0, `cause` in bits 5:2, bits 15:6 read as 0 (R23). -/
def State.statusWord (s : State) : BitVec 16 := 0#10 ++ s.STATUS.causeField ++ s.STATUS.stateField

/-- Whether the CORE is in state FAULTED (R23). -/
def Status.isFaulted : Status → Bool
  | .faulted _ => true
  | .idle => false
  | .running => false
  | .halted => false

/-! ## Taking a fault -/

/-- `raise c` (00_scope.md R9): the CORE's one exception entry. `STATUS` becomes FAULTED with the cause; nothing else
changes, so `pc` keeps the index of the faulting instruction (60_exceptions.md R113). There is no handler, no saved
state and no return: only a host Reset leaves FAULTED (R115, R116). -/
def raise (c : FaultCause) (s : State) : Result := .next { s with STATUS := .faulted c }

end Sys2Proof.Machine
end

