-- ==== Sys2Proof/Machine/Alu.lean ====
section
/-! DEFINITION. The ALU (spec/10_state.md R30; spec/42_arithmetic.md R85, R86): results are exact integers narrowed by
`wrapN`, and the two operand-value faults. -/

namespace Sys2Proof.Machine

/-- The operations of the ALU (10_state.md R30). -/
inductive AluOp where
  | add | sub | mul | div | and | or | xor | shl | shr | inc | dec
deriving DecidableEq, Repr

/-- How far a shift by the amount `b` moves: the amount, cut at the width, past which R94 and R95 say no result changes
(42_arithmetic.md R94, R95). `aluResult_shl` and `aluResult_shr` in Laws say that R86's formulas hold for every
amount; the cut only keeps the exact integer small. Log 10. -/
def shiftBy {n : Nat} (b : BitVec n) : Nat := min (sval b).toNat n

/-- The output `result` of the ALU (42_arithmetic.md R86). Division rounds toward minus infinity; the value shifted is
`a`, the amount `b`. -/
def aluResult {n : Nat} (f : AluOp) (a b : BitVec n) : BitVec n :=
  match f with
  | .add => wrapN n (sval a + sval b)
  | .sub => wrapN n (sval a - sval b)
  | .mul => wrapN n (sval a * sval b)
  | .div => wrapN n (Int.fdiv (sval a) (sval b))
  | .and => a &&& b
  | .or => a ||| b
  | .xor => a ^^^ b
  | .shl => wrapN n (sval a * 2 ^ shiftBy b)
  | .shr => wrapN n (Int.fdiv (sval a) (2 ^ shiftBy b))
  | .inc => wrapN n (sval a + 1)
  | .dec => wrapN n (sval a - 1)

/-- The output `dz`: divide by zero (10_state.md R30). -/
def aluDz {n : Nat} (f : AluOp) (b : BitVec n) : Bool := f == .div && b == 0

/-- The output `ns`: negative shift amount (10_state.md R30). The test for 0 comes first, which changes no outcome and lets
the check be evaluated on a zero amount where the width is no numeral (log 1). -/
def aluNs {n : Nat} (f : AluOp) (b : BitVec n) : Bool :=
  (f == .shl || f == .shr) && b != 0 && decide (sval b < 0)

/-- `ALU(f, a, b)` (42_arithmetic.md R86): the result, or the fault it raises. -/
def alu {n : Nat} (f : AluOp) (a b : BitVec n) : Except FaultCause (BitVec n) :=
  if aluDz f b then .error .divisionByZero
  else if aluNs f b then .error .negativeShift
  else .ok (aluResult f a b)

end Sys2Proof.Machine
end

