-- ==== Sys2Proof/Machine/Operands.lean ====
section
/-! DEFINITION. The operand forms of the instruction set: stack operands with their depth checks (spec/10_state.md R18;
spec/20_memory.md R39) and the literal of `push` (spec/30_encoding.md R56). Register operands are `RegFile.get`. -/

namespace Sys2Proof.Machine

/-- `S[SP]` after the check for one live cell (10_state.md R18). -/
def State.stackTop (s : State) : Except FaultCause (BitVec s.N) :=
  match s.stack with
  | v :: _ => .ok v
  | [] => .error .stackUnderflow

/-- `S[SP-1]` and `S[SP]`, in this order, after the check for two live cells (10_state.md R18): the first operand is
the second-from-top cell, the second the top cell (42_arithmetic.md R84). -/
def State.stackPair (s : State) : Except FaultCause (BitVec s.N × BitVec s.N) :=
  match s.stack with
  | b :: a :: _ => .ok (a, b)
  | [_] => .error .stackUnderflow
  | [] => .error .stackUnderflow

/-- `sext_N(imm16)`: the value a literal `push` pushes (30_encoding.md R56). -/
def State.literal (s : State) (imm : Index) : BitVec s.N := imm.signExtend s.N

end Sys2Proof.Machine
end

