-- ==== Sys2Proof/Machine/Arithmetic.lean ====
section
/-! DEFINITION. The meanings of the arithmetic and bitwise family in every shape (spec/42_arithmetic.md R84 to R98;
40_sequencer.md R72): the shared forms of R84, R96 and R97 first, then one definition per shape. -/

namespace Sys2Proof.Machine

/-- `BinaryOp(f)`, register form (R84): both operands are read before `rd` is written; the stack and the flags are
untouched. -/
def binaryReg (f : AluOp) (rs1 rs2 rd : Reg) (s : State) : Result :=
  match alu f (s.x.get rs1) (s.x.get rs2) with
  | .error c => raise c s
  | .ok r => .next (s.withRegs (s.x.set rd r))

/-- `BinaryOp(f)`, stack form (R84): the second-from-top cell takes the result and the top cell is popped; the depth
check comes before the ALU's own faults (60_exceptions.md R114). -/
def binaryStack (f : AluOp) (s : State) : Result :=
  match s.stackPair with
  | .error c => raise c s
  | .ok (a, b) =>
    match alu f a b with
    | .error c => raise c s
    | .ok r => .next (s.combine r)

/-- `inc` and `dec`, register form (R96, R97): the ALU's second input is unused (10_state.md R30). -/
def unaryReg (f : AluOp) (rs1 : Reg) (s : State) : Result :=
  match alu f (s.x.get rs1) 0 with
  | .error c => raise c s
  | .ok r => .next (s.withRegs (s.x.set rs1 r))

/-- `inc` and `dec`, stack form (R96, R97): the top cell in place, `SP` unchanged. -/
def unaryStack (f : AluOp) (s : State) : Result :=
  match s.stackTop with
  | .error c => raise c s
  | .ok a =>
    match alu f a 0 with
    | .error c => raise c s
    | .ok r => .next (s.writeTop r)

/-- `add`, stack form (42 R87, R84). -/
def execAddStack (s : State) : Result := binaryStack .add s

/-- `add` with one operand (`fm = 1`): class INCOMPLETE. It raises INCOMPLETE_OPERANDS (40 R72). -/
def execAddFm1 (s : State) : Result := raise .incompleteOperands s

/-- `add` with two operands (`fm = 2`): class INCOMPLETE. It raises INCOMPLETE_OPERANDS (40 R72). -/
def execAddFm2 (s : State) : Result := raise .incompleteOperands s

/-- `add rs1 rs2 rd`, register form (42 R87, R84). -/
def execAddReg (rs1 rs2 rd : Reg) (s : State) : Result := binaryReg .add rs1 rs2 rd s

/-- `add` with four or more operands (`fm = 4`): class ARITY. It raises ARITY_ERROR (40 R72). -/
def execAddFm4 (s : State) : Result := raise .arityError s

/-- `sub`, stack form (42 R88, R84). -/
def execSubStack (s : State) : Result := binaryStack .sub s

/-- `sub` with one operand (`fm = 1`): class INCOMPLETE. It raises INCOMPLETE_OPERANDS (40 R72). -/
def execSubFm1 (s : State) : Result := raise .incompleteOperands s

/-- `sub` with two operands (`fm = 2`): class INCOMPLETE. It raises INCOMPLETE_OPERANDS (40 R72). -/
def execSubFm2 (s : State) : Result := raise .incompleteOperands s

/-- `sub rs1 rs2 rd`, register form (42 R88, R84). -/
def execSubReg (rs1 rs2 rd : Reg) (s : State) : Result := binaryReg .sub rs1 rs2 rd s

/-- `sub` with four or more operands (`fm = 4`): class ARITY. It raises ARITY_ERROR (40 R72). -/
def execSubFm4 (s : State) : Result := raise .arityError s

/-- `inc`, stack form: the top cell in place (42 R96). -/
def execIncStack (s : State) : Result := unaryStack .inc s

/-- `inc rs1`, register form: the register in place (42 R96). -/
def execIncReg (rs1 : Reg) (s : State) : Result := unaryReg .inc rs1 s

/-- `inc` with two operands (`fm = 2`): class ARITY. It raises ARITY_ERROR (40 R72). -/
def execIncFm2 (s : State) : Result := raise .arityError s

/-- `inc` with three operands (`fm = 3`): class ARITY. It raises ARITY_ERROR (40 R72). -/
def execIncFm3 (s : State) : Result := raise .arityError s

/-- `inc` with four or more operands (`fm = 4`): class ARITY. It raises ARITY_ERROR (40 R72). -/
def execIncFm4 (s : State) : Result := raise .arityError s

/-- `dec`, stack form: the top cell in place (42 R97). -/
def execDecStack (s : State) : Result := unaryStack .dec s

/-- `dec rs1`, register form: the register in place (42 R97). -/
def execDecReg (rs1 : Reg) (s : State) : Result := unaryReg .dec rs1 s

/-- `dec` with two operands (`fm = 2`): class ARITY. It raises ARITY_ERROR (40 R72). -/
def execDecFm2 (s : State) : Result := raise .arityError s

/-- `dec` with three operands (`fm = 3`): class ARITY. It raises ARITY_ERROR (40 R72). -/
def execDecFm3 (s : State) : Result := raise .arityError s

/-- `dec` with four or more operands (`fm = 4`): class ARITY. It raises ARITY_ERROR (40 R72). -/
def execDecFm4 (s : State) : Result := raise .arityError s

/-- `imul`, stack form (42 R89, R84). -/
def execImulStack (s : State) : Result := binaryStack .mul s

/-- `imul` with one operand (`fm = 1`): class INCOMPLETE. It raises INCOMPLETE_OPERANDS (40 R72). -/
def execImulFm1 (s : State) : Result := raise .incompleteOperands s

/-- `imul` with two operands (`fm = 2`): class INCOMPLETE. It raises INCOMPLETE_OPERANDS (40 R72). -/
def execImulFm2 (s : State) : Result := raise .incompleteOperands s

/-- `imul rs1 rs2 rd`, register form (42 R89, R84). -/
def execImulReg (rs1 rs2 rd : Reg) (s : State) : Result := binaryReg .mul rs1 rs2 rd s

/-- `imul` with four or more operands (`fm = 4`): class ARITY. It raises ARITY_ERROR (40 R72). -/
def execImulFm4 (s : State) : Result := raise .arityError s

/-- `idiv`, stack form (42 R90, R84). -/
def execIdivStack (s : State) : Result := binaryStack .div s

/-- `idiv` with one operand (`fm = 1`): class INCOMPLETE. It raises INCOMPLETE_OPERANDS (40 R72). -/
def execIdivFm1 (s : State) : Result := raise .incompleteOperands s

/-- `idiv` with two operands (`fm = 2`): class INCOMPLETE. It raises INCOMPLETE_OPERANDS (40 R72). -/
def execIdivFm2 (s : State) : Result := raise .incompleteOperands s

/-- `idiv rs1 rs2 rd`, register form (42 R90, R84). -/
def execIdivReg (rs1 rs2 rd : Reg) (s : State) : Result := binaryReg .div rs1 rs2 rd s

/-- `idiv` with four or more operands (`fm = 4`): class ARITY. It raises ARITY_ERROR (40 R72). -/
def execIdivFm4 (s : State) : Result := raise .arityError s

/-- `and`, stack form (42 R91, R84). -/
def execAndStack (s : State) : Result := binaryStack .and s

/-- `and` with one operand (`fm = 1`): class INCOMPLETE. It raises INCOMPLETE_OPERANDS (40 R72). -/
def execAndFm1 (s : State) : Result := raise .incompleteOperands s

/-- `and` with two operands (`fm = 2`): class INCOMPLETE. It raises INCOMPLETE_OPERANDS (40 R72). -/
def execAndFm2 (s : State) : Result := raise .incompleteOperands s

/-- `and rs1 rs2 rd`, register form (42 R91, R84). -/
def execAndReg (rs1 rs2 rd : Reg) (s : State) : Result := binaryReg .and rs1 rs2 rd s

/-- `and` with four or more operands (`fm = 4`): class ARITY. It raises ARITY_ERROR (40 R72). -/
def execAndFm4 (s : State) : Result := raise .arityError s

/-- `or`, stack form (42 R92, R84). -/
def execOrStack (s : State) : Result := binaryStack .or s

/-- `or` with one operand (`fm = 1`): class INCOMPLETE. It raises INCOMPLETE_OPERANDS (40 R72). -/
def execOrFm1 (s : State) : Result := raise .incompleteOperands s

/-- `or` with two operands (`fm = 2`): class INCOMPLETE. It raises INCOMPLETE_OPERANDS (40 R72). -/
def execOrFm2 (s : State) : Result := raise .incompleteOperands s

/-- `or rs1 rs2 rd`, register form (42 R92, R84). -/
def execOrReg (rs1 rs2 rd : Reg) (s : State) : Result := binaryReg .or rs1 rs2 rd s

/-- `or` with four or more operands (`fm = 4`): class ARITY. It raises ARITY_ERROR (40 R72). -/
def execOrFm4 (s : State) : Result := raise .arityError s

/-- `xor`, stack form (42 R93, R84). -/
def execXorStack (s : State) : Result := binaryStack .xor s

/-- `xor` with one operand (`fm = 1`): class INCOMPLETE. It raises INCOMPLETE_OPERANDS (40 R72). -/
def execXorFm1 (s : State) : Result := raise .incompleteOperands s

/-- `xor` with two operands (`fm = 2`): class INCOMPLETE. It raises INCOMPLETE_OPERANDS (40 R72). -/
def execXorFm2 (s : State) : Result := raise .incompleteOperands s

/-- `xor rs1 rs2 rd`, register form (42 R93, R84). -/
def execXorReg (rs1 rs2 rd : Reg) (s : State) : Result := binaryReg .xor rs1 rs2 rd s

/-- `xor` with four or more operands (`fm = 4`): class ARITY. It raises ARITY_ERROR (40 R72). -/
def execXorFm4 (s : State) : Result := raise .arityError s

/-- `shl`, stack form (42 R94, R84). -/
def execShlStack (s : State) : Result := binaryStack .shl s

/-- `shl` with one operand (`fm = 1`): class INCOMPLETE. It raises INCOMPLETE_OPERANDS (40 R72). -/
def execShlFm1 (s : State) : Result := raise .incompleteOperands s

/-- `shl` with two operands (`fm = 2`): class INCOMPLETE. It raises INCOMPLETE_OPERANDS (40 R72). -/
def execShlFm2 (s : State) : Result := raise .incompleteOperands s

/-- `shl rs1 rs2 rd`, register form (42 R94, R84). -/
def execShlReg (rs1 rs2 rd : Reg) (s : State) : Result := binaryReg .shl rs1 rs2 rd s

/-- `shl` with four or more operands (`fm = 4`): class ARITY. It raises ARITY_ERROR (40 R72). -/
def execShlFm4 (s : State) : Result := raise .arityError s

/-- `shr`, stack form (42 R95, R84). -/
def execShrStack (s : State) : Result := binaryStack .shr s

/-- `shr` with one operand (`fm = 1`): class INCOMPLETE. It raises INCOMPLETE_OPERANDS (40 R72). -/
def execShrFm1 (s : State) : Result := raise .incompleteOperands s

/-- `shr` with two operands (`fm = 2`): class INCOMPLETE. It raises INCOMPLETE_OPERANDS (40 R72). -/
def execShrFm2 (s : State) : Result := raise .incompleteOperands s

/-- `shr rs1 rs2 rd`, register form (42 R95, R84). -/
def execShrReg (rs1 rs2 rd : Reg) (s : State) : Result := binaryReg .shr rs1 rs2 rd s

/-- `shr` with four or more operands (`fm = 4`): class ARITY. It raises ARITY_ERROR (40 R72). -/
def execShrFm4 (s : State) : Result := raise .arityError s

end Sys2Proof.Machine
end

