-- ==== Sys2Proof/Machine/Flags.lean ====
section
/-! DEFINITION. The condition-flag latch (spec/10_state.md R19, R31; spec/43_compare.md R99) and the branch conditions
read from it (spec/44_jumps.md R102). There is no other flag (10_state.md R20). -/

namespace Sys2Proof.Machine

/-- The latch under `fwe`: `Z <- (a = b)`, `P <- (sval(a) > sval(b))` (10_state.md R31). -/
def State.latchFlags (s : State) (a b : BitVec s.N) : State :=
  { s with Z := a == b, P := decide (sval a > sval b) }

/-- `cond(je) = (Z = 1)` (44_jumps.md R102). -/
def condJe (s : State) : Bool := s.Z

/-- `cond(jma) = (Z = 0)` (44_jumps.md R102). -/
def condJma (s : State) : Bool := !s.Z

/-- `cond(jne) = (Z = 0)` (44_jumps.md R102): the condition of `jma`, stated on its own because the spec keeps the two
opcodes apart and flags the point (44_jumps.md R109). Log 9. -/
def condJne (s : State) : Bool := !s.Z

end Sys2Proof.Machine
end

