-- ==== Sys2Proof/Machine/Compare.lean ====
section
/-! DEFINITION. The meanings of `cmp` in every shape (spec/43_compare.md R99; 40_sequencer.md R72). -/

namespace Sys2Proof.Machine

/-- `cmp`, stack form (43 R99): the second-from-top cell against the top cell; the stack is unchanged; with fewer than
two live cells STACK_UNDERFLOW. -/
def execCmpStack (s : State) : Result :=
  match s.stackPair with
  | .error c => raise c s
  | .ok (a, b) => .next (s.latchFlags a b)

/-- `cmp` with one operand (`fm = 1`): class INCOMPLETE. It raises INCOMPLETE_OPERANDS (40 R72). -/
def execCmpFm1 (s : State) : Result := raise .incompleteOperands s

/-- `cmp rs1 rs2`, register form (43 R99). -/
def execCmpReg (rs1 rs2 : Reg) (s : State) : Result := .next (s.latchFlags (s.x.get rs1) (s.x.get rs2))

/-- `cmp` with three operands (`fm = 3`): class ARITY. It raises ARITY_ERROR (40 R72). -/
def execCmpFm3 (s : State) : Result := raise .arityError s

/-- `cmp` with four or more operands (`fm = 4`): class ARITY. It raises ARITY_ERROR (40 R72). -/
def execCmpFm4 (s : State) : Result := raise .arityError s

end Sys2Proof.Machine
end

