-- ==== Sys2Proof/Machine/Branch.lean ====
section
/-! DEFINITION. The branch control unit (spec/10_state.md R32; spec/44_jumps.md R103 to R105). A jump yields the handler
PC; the sequencer adds the post-step increment (spec/40_sequencer.md R74). -/

namespace Sys2Proof.Machine

/-- The exact target `uval(pc) + sval(offset)` of a stack-form jump, no wrap (44_jumps.md R103). -/
def jumpSum (s : State) (offset : BitVec s.N) : Int := uval s.pc + sval offset

/-- `oob`: the exact target lies outside `0 .. PLEN - 1` (44_jumps.md R103). -/
def jumpOutOfBounds (s : State) (offset : BitVec s.N) : Bool :=
  decide (jumpSum s offset < 0) || decide (jumpSum s offset ≥ uval s.PLEN)

/-- The state with another handler PC (40_sequencer.md R73). -/
def State.withPc (s : State) (target : Index) : State := { s with pc := target }

/-- `JumpLiteral(c)` (44_jumps.md R104): taken, the handler PC is `(T - 2) mod 2^16`; no bounds check. -/
def jumpLiteral (c : Bool) (target : Index) (s : State) : Result :=
  .next (if c then s.withPc (target - 2) else s)

/-- `JumpStack(c)` (44_jumps.md R105): depth check, then the bounds check whatever the condition, then the offset is
popped whether or not the jump is taken; registers unchanged. -/
def jumpStack (c : Bool) (s : State) : Result :=
  match s.stackTop with
  | .error e => raise e s
  | .ok offset =>
    if jumpOutOfBounds s offset then raise .jumpOutOfBounds s
    else .next (if c then s.popCell.withPc (BitVec.ofInt 16 (jumpSum s offset)) else s.popCell)

end Sys2Proof.Machine
end

