-- ==== Sys2Proof/Machine/Jumps.lean ====
section
/-! DEFINITION. The meanings of `je`, `jma` and `jne` in every shape (spec/44_jumps.md R101 to R109; 40_sequencer.md R72). -/

namespace Sys2Proof.Machine

/-- `je`, stack form (44 R106, R105). -/
def execJeStack (s : State) : Result := jumpStack (condJe s) s

/-- `je target`, literal form (44 R106, R104). -/
def execJeLit (target : Index) (s : State) : Result := jumpLiteral (condJe s) target s

/-- `je` with two operands (`fm = 2`): class ARITY. It raises ARITY_ERROR (40 R72). -/
def execJeFm2 (s : State) : Result := raise .arityError s

/-- `je` with three operands (`fm = 3`): class ARITY. It raises ARITY_ERROR (40 R72). -/
def execJeFm3 (s : State) : Result := raise .arityError s

/-- `je` with four or more operands (`fm = 4`): class ARITY. It raises ARITY_ERROR (40 R72). -/
def execJeFm4 (s : State) : Result := raise .arityError s

/-- `je` with one operand that is not an integer literal (`fm = 5`): class BADLIT. It raises INVALID_OPERAND (40 R72). -/
def execJeFm5 (s : State) : Result := raise .invalidOperand s

/-- `jma`, stack form (44 R107, R105). -/
def execJmaStack (s : State) : Result := jumpStack (condJma s) s

/-- `jma target`, literal form (44 R107, R104). -/
def execJmaLit (target : Index) (s : State) : Result := jumpLiteral (condJma s) target s

/-- `jma` with two operands (`fm = 2`): class ARITY. It raises ARITY_ERROR (40 R72). -/
def execJmaFm2 (s : State) : Result := raise .arityError s

/-- `jma` with three operands (`fm = 3`): class ARITY. It raises ARITY_ERROR (40 R72). -/
def execJmaFm3 (s : State) : Result := raise .arityError s

/-- `jma` with four or more operands (`fm = 4`): class ARITY. It raises ARITY_ERROR (40 R72). -/
def execJmaFm4 (s : State) : Result := raise .arityError s

/-- `jma` with one operand that is not an integer literal (`fm = 5`): class BADLIT. It raises INVALID_OPERAND (40 R72). -/
def execJmaFm5 (s : State) : Result := raise .invalidOperand s

/-- `jne`, stack form (44 R108, R105). -/
def execJneStack (s : State) : Result := jumpStack (condJne s) s

/-- `jne target`, literal form (44 R108, R104). -/
def execJneLit (target : Index) (s : State) : Result := jumpLiteral (condJne s) target s

/-- `jne` with two operands (`fm = 2`): class ARITY. It raises ARITY_ERROR (40 R72). -/
def execJneFm2 (s : State) : Result := raise .arityError s

/-- `jne` with three operands (`fm = 3`): class ARITY. It raises ARITY_ERROR (40 R72). -/
def execJneFm3 (s : State) : Result := raise .arityError s

/-- `jne` with four or more operands (`fm = 4`): class ARITY. It raises ARITY_ERROR (40 R72). -/
def execJneFm4 (s : State) : Result := raise .arityError s

/-- `jne` with one operand that is not an integer literal (`fm = 5`): class BADLIT. It raises INVALID_OPERAND (40 R72). -/
def execJneFm5 (s : State) : Result := raise .invalidOperand s

end Sys2Proof.Machine
end

