-- ==== Sys2Proof/Machine/Skip.lean ====
section
/-! DEFINITION. The meanings of `skip` in every shape (spec/45_skip.md R110; 40_sequencer.md R72). -/

namespace Sys2Proof.Machine

/-- `skip` (45 R110): no effect of its own; the sequencer's post-step increment moves `pc` on. -/
def execSkip (s : State) : Result := .next s

/-- `skip` with one operand (`fm = 1`): class ARITY. It raises ARITY_ERROR (40 R72). -/
def execSkipFm1 (s : State) : Result := raise .arityError s

/-- `skip` with two operands (`fm = 2`): class ARITY. It raises ARITY_ERROR (40 R72). -/
def execSkipFm2 (s : State) : Result := raise .arityError s

/-- `skip` with three operands (`fm = 3`): class ARITY. It raises ARITY_ERROR (40 R72). -/
def execSkipFm3 (s : State) : Result := raise .arityError s

/-- `skip` with four or more operands (`fm = 4`): class ARITY. It raises ARITY_ERROR (40 R72). -/
def execSkipFm4 (s : State) : Result := raise .arityError s

end Sys2Proof.Machine
end

