-- ==== Sys2Proof/Machine/StackTransfer.lean ====
section
/-! DEFINITION. The meanings of `push` and `pop` in every shape (spec/41_stack_transfer.md R81, R82; 40_sequencer.md R72). -/

namespace Sys2Proof.Machine

/-- `push`, register form (41 R81): the old `reg_a` goes onto the stack and the register file shifts left, all
reads before all writes; on a full stack STACK_OVERFLOW. -/
def execPushReg (s : State) : Result :=
  if s.stackFull then raise .stackOverflow s
  else .next ((s.pushCell (s.x.get .a)).withRegs s.x.shiftLeft)

/-- `push imm`, literal form (41 R81): the sign-extended literal goes onto the stack, registers unchanged; on a full
stack STACK_OVERFLOW. -/
def execPushLit (imm : Index) (s : State) : Result :=
  if s.stackFull then raise .stackOverflow s
  else .next (s.pushCell (s.literal imm))

/-- `push` with two operands (`fm = 2`): class ARITY. It raises ARITY_ERROR (40 R72). -/
def execPushFm2 (s : State) : Result := raise .arityError s

/-- `push` with three operands (`fm = 3`): class ARITY. It raises ARITY_ERROR (40 R72). -/
def execPushFm3 (s : State) : Result := raise .arityError s

/-- `push` with four or more operands (`fm = 4`): class ARITY. It raises ARITY_ERROR (40 R72). -/
def execPushFm4 (s : State) : Result := raise .arityError s

/-- `push` with one operand that is not an integer literal (`fm = 5`): class BADLIT. It raises INVALID_OPERAND (40 R72). -/
def execPushFm5 (s : State) : Result := raise .invalidOperand s

/-- `pop` (41 R82): the top cell leaves the stack and enters the register file at `reg_a`, the file shifting right and
the old `reg_h` lost; on an empty stack STACK_UNDERFLOW. -/
def execPop (s : State) : Result :=
  match s.stackTop with
  | .error c => raise c s
  | .ok v => .next (s.popCell.withRegs (s.x.shiftRight v))

/-- `pop` with one operand (`fm = 1`): class ARITY. It raises ARITY_ERROR (40 R72). -/
def execPopFm1 (s : State) : Result := raise .arityError s

/-- `pop` with two operands (`fm = 2`): class ARITY. It raises ARITY_ERROR (40 R72). -/
def execPopFm2 (s : State) : Result := raise .arityError s

/-- `pop` with three operands (`fm = 3`): class ARITY. It raises ARITY_ERROR (40 R72). -/
def execPopFm3 (s : State) : Result := raise .arityError s

/-- `pop` with four or more operands (`fm = 4`): class ARITY. It raises ARITY_ERROR (40 R72). -/
def execPopFm4 (s : State) : Result := raise .arityError s

end Sys2Proof.Machine
end

