-- ==== Sys2Proof/Machine/Dispatch.lean ====
section
/-! DEFINITION. The dispatch of spec/40_sequencer.md R70, R73: one arm per instruction shape, each one call of its meaning. `exec` is the
handler: it yields the state with the handler PC; the post-step increment (R74) is the step's, not the handler's. -/

namespace Sys2Proof.Machine

def exec (i : Instr) (s : State) : Host.Outcome State Fault Refusal :=
  match i with
  | .pushReg => Sys2Proof.Machine.execPushReg s
  | .pushLit imm => Sys2Proof.Machine.execPushLit imm s
  | .pushFm2 => Sys2Proof.Machine.execPushFm2 s
  | .pushFm3 => Sys2Proof.Machine.execPushFm3 s
  | .pushFm4 => Sys2Proof.Machine.execPushFm4 s
  | .pushFm5 => Sys2Proof.Machine.execPushFm5 s
  | .pop => Sys2Proof.Machine.execPop s
  | .popFm1 => Sys2Proof.Machine.execPopFm1 s
  | .popFm2 => Sys2Proof.Machine.execPopFm2 s
  | .popFm3 => Sys2Proof.Machine.execPopFm3 s
  | .popFm4 => Sys2Proof.Machine.execPopFm4 s
  | .addStack => Sys2Proof.Machine.execAddStack s
  | .addFm1 => Sys2Proof.Machine.execAddFm1 s
  | .addFm2 => Sys2Proof.Machine.execAddFm2 s
  | .addReg rs1 rs2 rd => Sys2Proof.Machine.execAddReg rs1 rs2 rd s
  | .addFm4 => Sys2Proof.Machine.execAddFm4 s
  | .subStack => Sys2Proof.Machine.execSubStack s
  | .subFm1 => Sys2Proof.Machine.execSubFm1 s
  | .subFm2 => Sys2Proof.Machine.execSubFm2 s
  | .subReg rs1 rs2 rd => Sys2Proof.Machine.execSubReg rs1 rs2 rd s
  | .subFm4 => Sys2Proof.Machine.execSubFm4 s
  | .incStack => Sys2Proof.Machine.execIncStack s
  | .incReg rs1 => Sys2Proof.Machine.execIncReg rs1 s
  | .incFm2 => Sys2Proof.Machine.execIncFm2 s
  | .incFm3 => Sys2Proof.Machine.execIncFm3 s
  | .incFm4 => Sys2Proof.Machine.execIncFm4 s
  | .decStack => Sys2Proof.Machine.execDecStack s
  | .decReg rs1 => Sys2Proof.Machine.execDecReg rs1 s
  | .decFm2 => Sys2Proof.Machine.execDecFm2 s
  | .decFm3 => Sys2Proof.Machine.execDecFm3 s
  | .decFm4 => Sys2Proof.Machine.execDecFm4 s
  | .imulStack => Sys2Proof.Machine.execImulStack s
  | .imulFm1 => Sys2Proof.Machine.execImulFm1 s
  | .imulFm2 => Sys2Proof.Machine.execImulFm2 s
  | .imulReg rs1 rs2 rd => Sys2Proof.Machine.execImulReg rs1 rs2 rd s
  | .imulFm4 => Sys2Proof.Machine.execImulFm4 s
  | .idivStack => Sys2Proof.Machine.execIdivStack s
  | .idivFm1 => Sys2Proof.Machine.execIdivFm1 s
  | .idivFm2 => Sys2Proof.Machine.execIdivFm2 s
  | .idivReg rs1 rs2 rd => Sys2Proof.Machine.execIdivReg rs1 rs2 rd s
  | .idivFm4 => Sys2Proof.Machine.execIdivFm4 s
  | .andStack => Sys2Proof.Machine.execAndStack s
  | .andFm1 => Sys2Proof.Machine.execAndFm1 s
  | .andFm2 => Sys2Proof.Machine.execAndFm2 s
  | .andReg rs1 rs2 rd => Sys2Proof.Machine.execAndReg rs1 rs2 rd s
  | .andFm4 => Sys2Proof.Machine.execAndFm4 s
  | .orStack => Sys2Proof.Machine.execOrStack s
  | .orFm1 => Sys2Proof.Machine.execOrFm1 s
  | .orFm2 => Sys2Proof.Machine.execOrFm2 s
  | .orReg rs1 rs2 rd => Sys2Proof.Machine.execOrReg rs1 rs2 rd s
  | .orFm4 => Sys2Proof.Machine.execOrFm4 s
  | .xorStack => Sys2Proof.Machine.execXorStack s
  | .xorFm1 => Sys2Proof.Machine.execXorFm1 s
  | .xorFm2 => Sys2Proof.Machine.execXorFm2 s
  | .xorReg rs1 rs2 rd => Sys2Proof.Machine.execXorReg rs1 rs2 rd s
  | .xorFm4 => Sys2Proof.Machine.execXorFm4 s
  | .shlStack => Sys2Proof.Machine.execShlStack s
  | .shlFm1 => Sys2Proof.Machine.execShlFm1 s
  | .shlFm2 => Sys2Proof.Machine.execShlFm2 s
  | .shlReg rs1 rs2 rd => Sys2Proof.Machine.execShlReg rs1 rs2 rd s
  | .shlFm4 => Sys2Proof.Machine.execShlFm4 s
  | .shrStack => Sys2Proof.Machine.execShrStack s
  | .shrFm1 => Sys2Proof.Machine.execShrFm1 s
  | .shrFm2 => Sys2Proof.Machine.execShrFm2 s
  | .shrReg rs1 rs2 rd => Sys2Proof.Machine.execShrReg rs1 rs2 rd s
  | .shrFm4 => Sys2Proof.Machine.execShrFm4 s
  | .cmpStack => Sys2Proof.Machine.execCmpStack s
  | .cmpFm1 => Sys2Proof.Machine.execCmpFm1 s
  | .cmpReg rs1 rs2 => Sys2Proof.Machine.execCmpReg rs1 rs2 s
  | .cmpFm3 => Sys2Proof.Machine.execCmpFm3 s
  | .cmpFm4 => Sys2Proof.Machine.execCmpFm4 s
  | .jeStack => Sys2Proof.Machine.execJeStack s
  | .jeLit target => Sys2Proof.Machine.execJeLit target s
  | .jeFm2 => Sys2Proof.Machine.execJeFm2 s
  | .jeFm3 => Sys2Proof.Machine.execJeFm3 s
  | .jeFm4 => Sys2Proof.Machine.execJeFm4 s
  | .jeFm5 => Sys2Proof.Machine.execJeFm5 s
  | .jmaStack => Sys2Proof.Machine.execJmaStack s
  | .jmaLit target => Sys2Proof.Machine.execJmaLit target s
  | .jmaFm2 => Sys2Proof.Machine.execJmaFm2 s
  | .jmaFm3 => Sys2Proof.Machine.execJmaFm3 s
  | .jmaFm4 => Sys2Proof.Machine.execJmaFm4 s
  | .jmaFm5 => Sys2Proof.Machine.execJmaFm5 s
  | .jneStack => Sys2Proof.Machine.execJneStack s
  | .jneLit target => Sys2Proof.Machine.execJneLit target s
  | .jneFm2 => Sys2Proof.Machine.execJneFm2 s
  | .jneFm3 => Sys2Proof.Machine.execJneFm3 s
  | .jneFm4 => Sys2Proof.Machine.execJneFm4 s
  | .jneFm5 => Sys2Proof.Machine.execJneFm5 s
  | .skip => Sys2Proof.Machine.execSkip s
  | .skipFm1 => Sys2Proof.Machine.execSkipFm1 s
  | .skipFm2 => Sys2Proof.Machine.execSkipFm2 s
  | .skipFm3 => Sys2Proof.Machine.execSkipFm3 s
  | .skipFm4 => Sys2Proof.Machine.execSkipFm4 s

end Sys2Proof.Machine
end

