-- ==== Sys2Proof/Machine/Sequencer.lean ====
section
/-! DEFINITION. What the fetch-execute sequencer does around a handler (spec/40_sequencer.md R71, R74, R77): the halt test,
the fetch, the post-step increment, and placing a word where the next step fetches it. -/

namespace Sys2Proof.Machine

/-- The halt test `uval(pc) >= uval(PLEN)` (40_sequencer.md R71). -/
def State.atEnd (s : State) : Bool := decide (s.pc.toNat ≥ s.PLEN.toNat)

/-- `STATUS.state <- HALTED`, nothing else (40_sequencer.md R71, R77). -/
def State.halt (s : State) : State := { s with STATUS := .halted }

/-- `iw <- IMemRead(pc)` (40_sequencer.md R71). -/
def State.fetch (s : State) : InstrWord := s.IMEM.readWord s.pc

/-- The post-step increment, after every handler that does not fault: `pc <- (pc' + 1) mod 2^16` (40_sequencer.md R74).
A handler that faulted has committed nothing and `pc` keeps its value (60_exceptions.md R113). Log 7. -/
def postStep (s : State) : State :=
  if s.STATUS.isFaulted then s else { s with pc := s.pc + 1 }

/-- The post-step increment on what a handler answers (40_sequencer.md R74). -/
def afterHandler : Result → Result
  | .next s => .next (postStep s)
  | .fault r => .fault r
  | .refused r => .refused r

/-- `s` with the word `w` as the program at `pc`: the word in instruction memory, `PLEN` beyond `pc` and the CORE
RUNNING, everything a step needs to fetch it (40_sequencer.md R71). No `PLEN` lies beyond `pc` = 65535
(10_state.md R22), so there, and only there, `pc` becomes 0. Log 8. -/
def State.placeWord (s : State) (w : InstrWord) : State :=
  let at_ : Index := if s.pc = 0xFFFF then 0 else s.pc
  { s with
    pc := at_
    PLEN := if at_.toNat < s.PLEN.toNat then s.PLEN else at_ + 1
    STATUS := .running
    IMEM := s.IMEM.writeWord at_ w }

end Sys2Proof.Machine
end

