-- ==== Sys2Proof/Machine/Step.lean ====
section
/-! DEFINITION. One step of the CORE (spec/40_sequencer.md R71). -/

namespace Sys2Proof.Machine

/-- One step of the sequencer (40_sequencer.md R71): in RUNNING it halts, or fetches, decodes and runs one instruction
and adds the post-step increment; in any other state it performs no step (10_state.md R33, 40_sequencer.md R77) and
the state stays as it is (log 7). A word that is no instruction raises ILLEGAL_INSTRUCTION (40_sequencer.md R72). -/
def step (s : State) : Host.Outcome State Fault Refusal :=
  match s.STATUS with
  | .running =>
    if s.atEnd then .next s.halt
    else
      match decode s.fetch with
      | .error _ => raise .illegalInstruction s
      | .ok i => afterHandler (exec i s)
  | .idle => .next s
  | .halted => .next s
  | .faulted _ => .next s

/-- `s` with the instruction whose bits are `w` stored where the next step fetches it, and what that fetch needs
(`State.placeWord`). It stands for the host's load (70_reset_and_hazards.md R129). Log 8. -/
def State.withFetchWord (s : State) (nbits w : Nat) : State := s.placeWord (tableWord nbits w)

end Sys2Proof.Machine
end

