-- ==== Sys2Proof/Machine/HostPort.lean ====
section
/-! DEFINITION. The host interface (spec/10_state.md R34 to R36; spec/40_sequencer.md R76, R80; spec/70_reset_and_hazards.md
R127 to R130, R136): the operations the host may issue between steps, its reads, the boot sequence and a bounded run.
Log 8. -/

namespace Sys2Proof.Machine

/-- The host operations that change state (10_state.md R34). -/
inductive HostOp where
  /-- `Reset`, accepted in every state. -/
  | reset
  /-- `WriteIMEM(i, w)`. -/
  | writeIMEM (i : Index) (w : InstrWord)
  /-- `WritePLEN(L)`. -/
  | writePLEN (len : Index)
  /-- `Start`. -/
  | start
  /-- `Execute(w)`. -/
  | execute (w : InstrWord)
deriving DecidableEq, Repr

/-- `Reset` (70_reset_and_hazards.md R127): every register at its reset value, the stack empty, `IMEM` kept. The
parameters of the instance are no state and stay. -/
def State.hostReset (s : State) : State := { State.resetOf s.N s.SDEPTH s.SPW with IMEM := s.IMEM }

/-- `Execute(w)` (40_sequencer.md R80): decode and handler, no halt test, no fetch, no post-step increment. -/
def executeWord (w : InstrWord) (s : State) : Result :=
  match decode w with
  | .error _ => raise .illegalInstruction s
  | .ok i => exec i s

/-- One host operation (10_state.md R34). Outside IDLE all but `Reset` are refused: the host must not issue them and a
model refuses them (R34, 92 D30). -/
def hostOp (op : HostOp) (s : State) : Result :=
  match op with
  | .reset => .next s.hostReset
  | .writeIMEM i w =>
    if s.STATUS = .idle then .next { s with IMEM := s.IMEM.writeWord i w } else .refused .hostOpOutsideIdle
  | .writePLEN len =>
    if s.STATUS = .idle then .next { s with PLEN := len } else .refused .hostOpOutsideIdle
  | .start =>
    if s.STATUS = .idle then .next { s with STATUS := .running } else .refused .hostOpOutsideIdle
  | .execute w =>
    if s.STATUS = .idle then executeWord w s else .refused .hostOpOutsideIdle

/-- A sequence of host operations, ending at the first that is refused. -/
def hostOps : List HostOp → State → Result
  | [], s => .next s
  | op :: ops, s =>
    match hostOp op s with
    | .next t => hostOps ops t
    | .fault r => .fault r
    | .refused r => .refused r

/-- The `WriteIMEM` operations that load words from index `i` on (70_reset_and_hazards.md R129 step 2). -/
def loadOps : Nat → List InstrWord → List HostOp
  | _, [] => []
  | i, w :: ws => .writeIMEM (BitVec.ofNat 16 i) w :: loadOps (i + 1) ws

/-- The boot sequence of 70_reset_and_hazards.md R129: Reset, the program words, `PLEN`, Start. A program of more than
65535 words cannot be loaded (10_state.md R22, 93 section 4). -/
def boot (program : List InstrWord) (s : State) : Result :=
  if program.length ≤ Config.plenMax then
    hostOps (.reset :: (loadOps 0 program ++ [.writePLEN (BitVec.ofNat 16 program.length), .start])) s
  else .refused .programTooLong

/-- At most `fuel` steps, ending early once `STATUS.state` is not RUNNING (70_reset_and_hazards.md R130, R136). -/
def runSteps : Nat → State → Result
  | 0, s => .next s
  | fuel + 1, s =>
    if s.STATUS = .running then
      match step s with
      | .next t => runSteps fuel t
      | .fault r => .fault r
      | .refused r => .refused r
    else .next s

/-- The host's `run(program)` with a step bound (70_reset_and_hazards.md R130, R136): a run that exhausts the bound is
still RUNNING, not faulted. -/
def runProgram (fuel : Nat) (program : List InstrWord) (s : State) : Result :=
  match boot program s with
  | .next t => runSteps fuel t
  | .fault r => .fault r
  | .refused r => .refused r

/-- The words of a program image stored as bytes, least significant byte first (20_memory.md R40); `none` where the
length is no multiple of 4. -/
def wordsOfImage : List Byte → Option (List InstrWord)
  | [] => some []
  | b0 :: b1 :: b2 :: b3 :: rest => (wordsOfImage rest).map (wordOfBytes b0 b1 b2 b3 :: ·)
  | [_, _, _] => none
  | [_, _] => none
  | [_] => none

/-! ## Host reads (10_state.md R35): no effect on state, available in every state. Log 12. -/

/-- Read `x[i]`. -/
def readRegister (s : State) (r : Reg) : BitVec s.N := s.x.get r

/-- The register a name of 10_state.md R11 stands for. -/
def registerNamed (name : List Char) : Option Reg :=
  if name = "reg_a".toList then some .a
  else if name = "reg_b".toList then some .b
  else if name = "reg_c".toList then some .c
  else if name = "reg_d".toList then some .d
  else if name = "reg_e".toList then some .e
  else if name = "reg_f".toList then some .f
  else if name = "reg_g".toList then some .g
  else if name = "reg_h".toList then some .h
  else none

/-- The document's `get_register(name)` (R35); a name that is none of the eight is refused. -/
def getRegister (s : State) (name : List Char) : Except Refusal (BitVec s.N) :=
  match registerNamed name with
  | some r => .ok (readRegister s r)
  | none => .error .unknownRegister

/-- Read `SP`: the value the register of `SPW` bits holds. -/
def readSP (s : State) : Int := sval s.pointerRegister

/-- Read the live cell `S[i]`; a read of a dead cell is refused (R35). -/
def readCell (s : State) (i : Nat) : Except Refusal (BitVec s.N) :=
  match s.cell i with
  | some v => .ok v
  | none => .error .deadCellRead

/-- Read `Z`. -/
def readZ (s : State) : Bool := s.Z

/-- Read `P`. -/
def readP (s : State) : Bool := s.P

/-- Read `pc`. -/
def readPc (s : State) : Index := s.pc

/-- Read `STATUS`. -/
def readStatus (s : State) : BitVec 16 := s.statusWord

/-- Read `PLEN`. -/
def readPLEN (s : State) : Index := s.PLEN

/-- Read `IMEM[i]`. -/
def readIMEM (s : State) (i : Index) : InstrWord := s.IMEM.readWord i

/-- The content of the state dump: the live stack cells from index 0 upward, then `x[0]` to `x[7]` (R35). -/
def stateDump (s : State) : List (BitVec s.N) :=
  s.liveCells ++ [s.x.reg_a, s.x.reg_b, s.x.reg_c, s.x.reg_d, s.x.reg_e, s.x.reg_f, s.x.reg_g, s.x.reg_h]

end Sys2Proof.Machine
end

