-- ==== Sys2Proof/Machine/Assembler.lean ====
section
/-! DEFINITION. The assembler syntax (spec/30_encoding.md R62 to R68): which word each source line becomes. The loader is
outside the hardware (spec/00_scope.md R4); this is the mapping the spec gives for it. Log 13. -/

namespace Sys2Proof.Machine

/-- Why the assembler rejects a whole program (30_encoding.md R64, R67; 93_implementation_defined.md section 4). -/
inductive AsmRefusal where
  /-- `UnknownCommand`: the first token is no opcode (R64). -/
  | unknownCommand
  /-- A push literal outside -32768 .. 32767 (92 D8). -/
  | literalOutOfRange
  /-- A jump target outside 1 .. 65535 (92 D9). -/
  | targetOutOfRange
  /-- A register-form operand that is no register name (92 D27). -/
  | badRegister
  /-- More than 65535 lines (92 D10). -/
  | tooManyLines
deriving DecidableEq, Repr

/-- The white space that separates tokens (R62): the ASCII white-space characters. Log 13. -/
def isBlank (c : Char) : Bool :=
  c == ' ' || c == '\t' || c == '\n' || c == '\r' || c == '\x0b' || c == '\x0c'

/-- The tokens of a line, split at white space; `acc` holds the current token, reversed. -/
def tokensFrom : List Char → List Char → List (List Char)
  | acc, [] => if acc.isEmpty then [] else [acc.reverse]
  | acc, c :: cs =>
    if isBlank c then (if acc.isEmpty then tokensFrom [] cs else acc.reverse :: tokensFrom [] cs)
    else tokensFrom (c :: acc) cs

/-- The tokens of a source line (R62). -/
def tokens (line : List Char) : List (List Char) := tokensFrom [] line

/-- The spelling of an opcode: case-sensitive, exact (R54, R64). -/
def opcodeName : Opcode → String
  | .push => "push"
  | .pop => "pop"
  | .add => "add"
  | .sub => "sub"
  | .inc => "inc"
  | .dec => "dec"
  | .imul => "imul"
  | .idiv => "idiv"
  | .and => "and"
  | .or => "or"
  | .xor => "xor"
  | .shl => "shl"
  | .shr => "shr"
  | .cmp => "cmp"
  | .je => "je"
  | .jma => "jma"
  | .jne => "jne"
  | .skip => "skip"

/-- The 18 opcodes in the order of R54. -/
def allOpcodes : List Opcode :=
  [.push, .pop, .add, .sub, .inc, .dec, .imul, .idiv, .and, .or, .xor, .shl, .shr, .cmp, .je, .jma, .jne, .skip]

/-- The opcode a first token names, if any (R64). -/
def opcodeNamed (t : List Char) : Option Opcode :=
  allOpcodes.find? fun o => (opcodeName o).toList == t

/-- The register an operand token names: `a` to `h` or `reg_a` to `reg_h` (R65). -/
def registerToken (t : List Char) : Option Reg :=
  match t with
  | ['a'] => some .a
  | ['b'] => some .b
  | ['c'] => some .c
  | ['d'] => some .d
  | ['e'] => some .e
  | ['f'] => some .f
  | ['g'] => some .g
  | ['h'] => some .h
  | _ => registerNamed t

/-- The value of an ASCII decimal digit (R66). -/
def digitValue (c : Char) : Option Nat :=
  if '0'.toNat ≤ c.toNat ∧ c.toNat ≤ '9'.toNat then some (c.toNat - '0'.toNat) else none

/-- The value of a string of decimal digits after the value read so far (R66). -/
def digitsFrom : Nat → List Char → Option Nat
  | v, [] => some v
  | v, c :: cs =>
    match digitValue c with
    | some d => digitsFrom (10 * v + d) cs
    | none => none

/-- The value of a token matching `[0-9]+` (R66). -/
def naturalToken (t : List Char) : Option Nat :=
  if t.isEmpty then none else digitsFrom 0 t

/-- The value of a token matching `-?[0-9]+`, if it is one (R66). -/
def literalToken (t : List Char) : Option Int :=
  match t with
  | '-' :: ds => (naturalToken ds).map fun v => -(v : Int)
  | _ => (naturalToken t).map fun v => (v : Int)

/-- Whether an opcode is a binary operator of the arithmetic family (42_arithmetic.md). -/
def isBinaryOp : Opcode → Bool
  | .add | .sub | .imul | .idiv | .and | .or | .xor | .shl | .shr => true
  | .push | .pop | .inc | .dec | .cmp | .je | .jma | .jne | .skip => false

/-- A literal operand of `push` or of a jump (R67): its word, `fm = 5` where the token is no literal, or a refusal where
its value is out of range. -/
def assembleLiteral (o : Opcode) (t : List Char) : Except AsmRefusal InstrWord :=
  match literalToken t with
  | none => .ok (encodeN o 5)
  | some v =>
    if o.isJump then
      if 1 ≤ v ∧ v ≤ 65535 then .ok (encodeI o 1 (BitVec.ofInt 16 v)) else .error .targetOutOfRange
    else
      if -32768 ≤ v ∧ v ≤ 32767 then .ok (encodeI o 1 (BitVec.ofInt 16 v)) else .error .literalOutOfRange

/-- A record of an opcode and its operand tokens, as a word (R67). A shape that faults by its count keeps no operand. -/
def assembleRecord (o : Opcode) (operands : List (List Char)) : Except AsmRefusal InstrWord :=
  match operands with
  | [] => .ok (encodeN o 0)
  | [t] =>
    if o == .push || o.isJump then assembleLiteral o t
    else if o == .inc || o == .dec then
      match registerToken t with
      | some r => .ok (encodeR1 o 1 r)
      | none => .error .badRegister
    else .ok (encodeN o 1)
  | [t1, t2] =>
    if o == .cmp then
      match registerToken t1, registerToken t2 with
      | some r1, some r2 => .ok (encodeR2 o 2 r1 r2)
      | _, _ => .error .badRegister
    else .ok (encodeN o 2)
  | [t1, t2, t3] =>
    if isBinaryOp o then
      match registerToken t1, registerToken t2, registerToken t3 with
      | some r1, some r2, some r3 => .ok (encodeR3 o 3 r1 r2 r3)
      | _, _, _ => .error .badRegister
    else .ok (encodeN o 3)
  | _ => .ok (encodeN o 4)

/-- A source line, as a word (R62 to R67). An empty line, a line of only white space and a line whose first character is
`;` become `skip` (R63). -/
def assembleLine (line : List Char) : Except AsmRefusal InstrWord :=
  match line with
  | ';' :: _ => .ok (encodeN .skip 0)
  | _ =>
    match tokens line with
    | [] => .ok (encodeN .skip 0)
    | t :: operands =>
      match opcodeNamed t with
      | some o => assembleRecord o operands
      | none => .error .unknownCommand

/-- The words of a list of source lines, in order; the first refusal refuses the whole program (R64, R67). -/
def assembleLines : List (List Char) → Except AsmRefusal (List InstrWord)
  | [] => .ok []
  | l :: ls =>
    match assembleLine l with
    | .error e => .error e
    | .ok w =>
      match assembleLines ls with
      | .error e => .error e
      | .ok ws => .ok (w :: ws)

/-- A source program as the words to load: line `n` becomes `IMEM[n - 1]`, `PLEN` is the number of lines (R62). -/
def assembleProgram (lines : List (List Char)) : Except AsmRefusal (List InstrWord) :=
  if lines.length ≤ Config.plenMax then assembleLines lines else .error .tooManyLines

end Sys2Proof.Machine
end

