-- ==== Sys2Proof/Safety.lean ====
section
/-! DEFINITION. What the statements about whole runs speak of: the invariant every state of a real instance meets, the
states that count as good ends, and reachability by steps and host operations. -/

namespace Sys2Proof.Machine

/-- What holds in every state of an instance of the CORE: the parameters are in the ranges of 00_scope.md R5, the stack
holds at most `SDEPTH` cells (10_state.md R15, R16) and instruction memory is in canonical form. -/
structure State.Inv (s : State) : Prop where
  /-- `N >= 16` (00_scope.md R5). -/
  width : 16 ≤ s.N
  /-- `SDEPTH >= 2` (00_scope.md R5). -/
  capacity : 2 ≤ s.SDEPTH
  /-- A register of `SPW` bits holds every value from -1 to `SDEPTH - 1` in two's complement (00_scope.md R5): the largest
  value it holds is `2 ^ (SPW - 1) - 1`, and with `SDEPTH >= 2` such a width is at least 2, so it holds -1. -/
  pointer : s.SDEPTH ≤ 2 ^ (s.SPW - 1)
  /-- `SP <= SDEPTH - 1` (10_state.md R16). -/
  bounded : s.depth ≤ s.SDEPTH
  /-- The canonical form of instruction memory. -/
  memory : s.IMEM.wf

/-- A run is safe so far when no fault has stopped it (60_exceptions.md R111). -/
def State.Safe (s : State) : Prop := s.STATUS.isFaulted = false

/-- A run has ended (10_state.md R36). -/
def State.Ended (s : State) : Prop := s.STATUS = .halted ∨ s.STATUS.isFaulted = true

/-- The states an instance reaches from power-on by steps of the sequencer and operations of the host (10_state.md R34,
20_memory.md R45). -/
inductive Reachable (n sdepth spw : Nat) : State → Prop where
  /-- Power-on is a Reset (70_reset_and_hazards.md R127). -/
  | powerOn : Reachable n sdepth spw (State.resetOf n sdepth spw)
  /-- A step of the sequencer. -/
  | step {s t : State} : Reachable n sdepth spw s → step s = .next t → Reachable n sdepth spw t
  /-- An operation of the host. -/
  | host {s t : State} (op : HostOp) : Reachable n sdepth spw s → hostOp op s = .next t → Reachable n sdepth spw t

end Sys2Proof.Machine
end

