-- ==== Sys2Proof/Certificates/Slice0/Obligations.lean ====
section
/-! DEFINITION. The statements about this model, for the provers. Each says in its docstring which rule of spec/ it rests on.
An equation `exec i s = .next { s with … }` fixes the whole next state, so it is the instruction's frame too. -/

namespace Sys2Proof.Stated

open Sys2Proof.Machine

/-- The outcome of a fault: STATUS is FAULTED with the cause and nothing else changes (60_exceptions.md R113). -/
abbrev faulted (s : State) (c : FaultCause) : Result := .next { s with STATUS := .faulted c }

/-- The 19 shapes of class INCOMPLETE (30_encoding.md R57). -/
def incompleteShapes : List Instr :=
  [ .addFm1, .addFm2, .subFm1, .subFm2, .imulFm1, .imulFm2, .idivFm1, .idivFm2,
    .andFm1, .andFm2, .orFm1, .orFm2, .xorFm1, .xorFm2, .shlFm1, .shlFm2,
    .shrFm1, .shrFm2, .cmpFm1 ]

/-- The 37 shapes of class ARITY (30_encoding.md R57). -/
def arityShapes : List Instr :=
  [ .pushFm2, .pushFm3, .pushFm4, .popFm1, .popFm2, .popFm3, .popFm4, .addFm4,
    .subFm4, .incFm2, .incFm3, .incFm4, .decFm2, .decFm3, .decFm4, .imulFm4,
    .idivFm4, .andFm4, .orFm4, .xorFm4, .shlFm4, .shrFm4, .cmpFm3, .cmpFm4,
    .jeFm2, .jeFm3, .jeFm4, .jmaFm2, .jmaFm3, .jmaFm4, .jneFm2, .jneFm3,
    .jneFm4, .skipFm1, .skipFm2, .skipFm3, .skipFm4 ]

/-- The 4 shapes of class BADLIT (30_encoding.md R57). -/
def badlitShapes : List Instr :=
  [ .pushFm5, .jeFm5, .jmaFm5, .jneFm5 ]

/-- The stack forms of the nine binary operators (42_arithmetic.md R84). -/
def binaryStackForms : List Instr :=
  [ .addStack, .subStack, .imulStack, .idivStack, .andStack, .orStack, .xorStack, .shlStack, .shrStack ]

/-- The stack forms of the three jumps (44_jumps.md R101). -/
def jumpStackForms : List Instr := [ .jeStack, .jmaStack, .jneStack ]

/-- The instructions that write the register file (10_state.md R12). -/
def writesRegisters : Instr → Bool
  | .addReg _ _ _ | .subReg _ _ _ | .imulReg _ _ _ | .idivReg _ _ _ | .andReg _ _ _ | .orReg _ _ _
  | .xorReg _ _ _ | .shlReg _ _ _ | .shrReg _ _ _ | .incReg _ | .decReg _ | .pushReg | .pop => true
  | _ => false

/-- By how much an instruction that does not fault moves `SP` (10_state.md R16). -/
def spMove : Instr → Int
  | .pushReg | .pushLit _ => 1
  | i => if i = .pop ∨ i ∈ binaryStackForms ∨ i ∈ jumpStackForms then -1 else 0

/-- A literal jump whose branch condition holds (44_jumps.md R102), with its target. -/
def takenLiteral (i : Instr) (target : Index) (s : State) : Prop :=
  (i = .jeLit target ∧ s.Z = true) ∨ (i = .jmaLit target ∧ s.Z = false) ∨ (i = .jneLit target ∧ s.Z = false)

/-- A literal jump whose branch condition does not hold (44_jumps.md R102). -/
def untakenLiteral (i : Instr) (target : Index) (s : State) : Prop :=
  (i = .jeLit target ∧ s.Z = false) ∨ (i = .jmaLit target ∧ s.Z = true) ∨ (i = .jneLit target ∧ s.Z = true)

/-- A stack-form jump whose branch condition holds (44_jumps.md R102). -/
def takenStack (i : Instr) (s : State) : Prop :=
  (i = .jeStack ∧ s.Z = true) ∨ (i = .jmaStack ∧ s.Z = false) ∨ (i = .jneStack ∧ s.Z = false)

/-- The must-be-zero bits of the format that 30_encoding.md R57 gives a pair of opcode number and form, from R52 and R58. -/
def mustBeZero (op fm : Nat) : InstrWord :=
  if op ∈ [1, 15, 16, 17] ∧ fm = 1 then 0x0000FF00
  else if op ∈ [3, 4, 7, 8, 9, 10, 11, 12, 13] ∧ fm = 3 then 0xFFFE0000
  else if op ∈ [5, 6] ∧ fm = 1 then 0xFFFFF800
  else if op = 14 ∧ fm = 2 then 0xFFFFC000
  else 0xFFFFFF00

/-- A RUNNING core about to run the instruction `i` (40_sequencer.md R71). -/
def aboutToRun (s : State) (i : Instr) : Prop :=
  s.STATUS = .running ∧ s.pc.toNat < s.PLEN.toNat ∧ decode (s.IMEM.readWord s.pc) = .ok i

/-- What the rule of a binary operator says (42_arithmetic.md R84 with the operator's own rule): its five encodings, its
register form, its stack form with the depth check first, and its faulting shapes. `value` is the operator's result,
`fails` the operand-value fault of the second operand. -/
def Binary (number : BitVec 5) (stackForm : Instr) (regForm : Reg → Reg → Reg → Instr) (oneForm twoForm fourForm : Instr)
    (value : (n : Nat) → BitVec n → BitVec n → BitVec n) (fails : (n : Nat) → BitVec n → Option FaultCause) : Prop :=
  (decode (0#24 ++ 0#3 ++ number) = .ok stackForm ∧ decode (0#24 ++ 1#3 ++ number) = .ok oneForm ∧
    decode (0#24 ++ 2#3 ++ number) = .ok twoForm ∧ decode (0#24 ++ 4#3 ++ number) = .ok fourForm ∧
    ∀ f1 f2 fd : BitVec 3, decode (0#15 ++ fd ++ f2 ++ f1 ++ 3#3 ++ number) =
      .ok (regForm (Reg.ofField f1) (Reg.ofField f2) (Reg.ofField fd))) ∧
  ∀ s : State,
    (∀ rs1 rs2 rd : Reg,
      (∀ c, fails s.N (s.x.get rs2) = some c → exec (regForm rs1 rs2 rd) s = faulted s c) ∧
      (fails s.N (s.x.get rs2) = none → exec (regForm rs1 rs2 rd) s =
        .next { s with x := s.x.set rd (value s.N (s.x.get rs1) (s.x.get rs2)) })) ∧
    (s.depth < 2 → exec stackForm s = faulted s .stackUnderflow) ∧
    (∀ a b rest, s.stack = b :: a :: rest →
      (∀ c, fails s.N b = some c → exec stackForm s = faulted s c) ∧
      (fails s.N b = none → exec stackForm s = .next { s with stack := value s.N a b :: rest })) ∧
    exec oneForm s = faulted s .incompleteOperands ∧ exec twoForm s = faulted s .incompleteOperands ∧
    exec fourForm s = faulted s .arityError

/-- What the rule of `inc` or `dec` says (42_arithmetic.md R96, R97), `delta` being what is added. -/
def Unary (number : BitVec 5) (stackForm : Instr) (regForm : Reg → Instr) (twoForm threeForm fourForm : Instr)
    (delta : Int) : Prop :=
  (decode (0#24 ++ 0#3 ++ number) = .ok stackForm ∧ decode (0#24 ++ 2#3 ++ number) = .ok twoForm ∧
    decode (0#24 ++ 3#3 ++ number) = .ok threeForm ∧ decode (0#24 ++ 4#3 ++ number) = .ok fourForm ∧
    ∀ f1 : BitVec 3, decode (0#21 ++ f1 ++ 1#3 ++ number) = .ok (regForm (Reg.ofField f1))) ∧
  ∀ s : State,
    (∀ rs1 : Reg, exec (regForm rs1) s =
      .next { s with x := s.x.set rs1 (wrapN s.N (sval (s.x.get rs1) + delta)) }) ∧
    (s.stack = [] → exec stackForm s = faulted s .stackUnderflow) ∧
    (∀ a rest, s.stack = a :: rest → exec stackForm s =
      .next { s with stack := wrapN s.N (sval a + delta) :: rest }) ∧
    exec twoForm s = faulted s .arityError ∧ exec threeForm s = faulted s .arityError ∧
    exec fourForm s = faulted s .arityError

/-- What the rule of a jump says (44_jumps.md R101 to R105 with the jump's own rule), `cond` being its branch condition. -/
def Jump (number : BitVec 5) (stackForm : Instr) (litForm : Index → Instr) (twoForm threeForm fourForm badForm : Instr)
    (cond : State → Bool) : Prop :=
  (decode (0#24 ++ 0#3 ++ number) = .ok stackForm ∧ decode (0#24 ++ 2#3 ++ number) = .ok twoForm ∧
    decode (0#24 ++ 3#3 ++ number) = .ok threeForm ∧ decode (0#24 ++ 4#3 ++ number) = .ok fourForm ∧
    decode (0#24 ++ 5#3 ++ number) = .ok badForm ∧
    (∀ target : Index, target ≠ 0 → decode (target ++ 0#8 ++ 1#3 ++ number) = .ok (litForm target)) ∧
    decode (0#16 ++ 0#8 ++ 1#3 ++ number) = .error .zeroTarget) ∧
  ∀ s : State,
    (∀ target : Index, exec (litForm target) s =
      .next { s with pc := if cond s then BitVec.ofInt 16 (uval target - 2) else s.pc }) ∧
    (s.stack = [] → exec stackForm s = faulted s .stackUnderflow) ∧
    (∀ offset rest, s.stack = offset :: rest →
      (uval s.pc + sval offset < 0 ∨ uval s.pc + sval offset ≥ uval s.PLEN →
        exec stackForm s = faulted s .jumpOutOfBounds) ∧
      (0 ≤ uval s.pc + sval offset → uval s.pc + sval offset < uval s.PLEN →
        exec stackForm s = .next { s with
          stack := rest
          pc := if cond s then BitVec.ofInt 16 (uval s.pc + sval offset) else s.pc })) ∧
    exec twoForm s = faulted s .arityError ∧ exec threeForm s = faulted s .arityError ∧
    exec fourForm s = faulted s .arityError ∧ exec badForm s = faulted s .invalidOperand

end Sys2Proof.Stated

section Statements

open Sys2Proof Sys2Proof.Machine Sys2Proof.Stated

/-! ## Encoding (30_encoding.md) -/

/-- Decoding the encoding of a well-formed instruction gives it back, at every value of every operand. -/
def Obligations.DecodeOfEncodeIsIdentity : Prop :=
  ∀ i : Instr, i.wellFormed = true → decode (encode i) = .ok i

/-- A word that decodes is the encoding of what it decodes to, and that is well formed: every legal word has one meaning. -/
def Obligations.EncodeOfDecodeIsIdentity : Prop :=
  ∀ (w : InstrWord) (i : Instr), decode w = .ok i → i.wellFormed = true ∧ encode i = w

/-- The decoder rejects exactly the illegal encodings of R59. -/
def Obligations.DecoderRejectsExactlyTheIllegalWords : Prop :=
  ∀ w : InstrWord,
    let op := (w.extractLsb' 0 5).toNat
    let fm := (w.extractLsb' 5 3).toNat
    (∃ e, decode w = .error e) ↔
      (op = 0 ∨ 19 ≤ op) ∨ 6 ≤ fm ∨ (fm = 5 ∧ op ∉ [1, 15, 16, 17]) ∨ w &&& mustBeZero op fm ≠ 0 ∨
        (op ∈ [15, 16, 17] ∧ fm = 1 ∧ w.extractLsb' 16 16 = 0)

/-- The decoder rejects a word exactly when the decode function of R58 answers ILLEGAL. -/
def Obligations.DecoderAgreesWithTheClassFunction : Prop :=
  ∀ w : InstrWord, decodeClass w = .illegal ↔ ∃ e, decode w = .error e

/-- Words written out from the example encodings of R69 decode to the instructions they stand for. -/
def Obligations.WrittenOutWordsDecode : Prop :=
  decode 0x00000001#32 = .ok .pushReg ∧ decode 0xFFFF0021#32 = .ok (.pushLit 0xFFFF) ∧ decode 0x00000002#32 = .ok .pop ∧
  decode 0x00008863#32 = .ok (.addReg .a .b .c) ∧ decode 0x00017764#32 = .ok (.subReg .h .g .f) ∧
  decode 0x00000726#32 = .ok (.decReg .h) ∧ decode 0x0000084E#32 = .ok (.cmpReg .a .b) ∧
  decode 0x0005002F#32 = .ok (.jeLit 5) ∧ decode 0x00000010#32 = .ok .jmaStack ∧ decode 0x00000012#32 = .ok .skip ∧
  decode 0x000000A1#32 = .ok .pushFm5

/-- A word serialised least significant byte first decodes as the word, and no other number of bytes is an instruction
(20_memory.md R40, 30_encoding.md R50); that a list of another length is rejected, under a name of its own, is the model's
choice (log 2). -/
def Obligations.SerialisedWordDecodesAsTheWord : Prop :=
  (∀ w : InstrWord, decodeBytes [w.extractLsb' 0 8, w.extractLsb' 8 8, w.extractLsb' 16 8, w.extractLsb' 24 8] = decode w) ∧
  ∀ bytes : List Byte, bytes.length ≠ 4 → decodeBytes bytes = .error .wrongLength

/-! ## The sequencer (40_sequencer.md) -/

/-- A step of a RUNNING core whose word at `pc` decodes to `i` is `exec i`, then the post-step increment unless a fault was
raised; and the instruction decoded is well formed. -/
def Obligations.StepRunsTheDecodedInstruction : Prop :=
  ∀ (s : State) (i : Instr), s.STATUS = .running → s.pc.toNat < s.PLEN.toNat →
    decode (s.IMEM.readWord s.pc) = .ok i →
    i.wellFormed = true ∧ ∃ t, exec i s = .next t ∧
      step s = .next (if t.STATUS.isFaulted then t else { t with pc := t.pc + 1 })

/-- Halting (R77): the step that finds `pc >= PLEN` sets HALTED, cause 0, and executes nothing; with `PLEN = 0` the first
step halts; HALTED and FAULTED take no step, and no host operation but Reset is accepted in them, which leaves them for
IDLE. That `step` answers the same state where the sequencer takes no step is the model's choice (log 7), and that a host
operation which is not accepted is refused follows 92 D30 (log 8). -/
def Obligations.StepAtTheEndHaltsForGood : Prop :=
  (∀ s : State, s.STATUS = .running → s.PLEN.toNat ≤ s.pc.toNat →
    step s = .next { s with STATUS := .halted } ∧
      (State.statusWord { s with STATUS := .halted }).extractLsb' 2 4 = 0) ∧
  (∀ s : State, s.STATUS = .running → s.PLEN = 0 → step s = .next { s with STATUS := .halted }) ∧
  (∀ s : State, (s.STATUS = .halted ∨ ∃ c, s.STATUS = .faulted c) →
    step s = .next s ∧ (∀ op t, hostOp op s = .next t → op = .reset) ∧
      ∃ t, hostOp .reset s = .next t ∧ t.STATUS = .idle)

/-- Operand-shape faults (R72): a word at `pc` of a class other than EXEC raises the fault of its class, whatever else the
state holds. -/
def Obligations.ShapeFaultsByDecodeClass : Prop :=
  ∀ s : State, s.STATUS = .running → s.pc.toNat < s.PLEN.toNat →
    (decodeClass (s.IMEM.readWord s.pc) = .illegal → step s = faulted s .illegalInstruction) ∧
    (decodeClass (s.IMEM.readWord s.pc) = .incomplete → step s = faulted s .incompleteOperands) ∧
    (decodeClass (s.IMEM.readWord s.pc) = .arity → step s = faulted s .arityError) ∧
    (decodeClass (s.IMEM.readWord s.pc) = .badlit → step s = faulted s .invalidOperand)

/-- Every step of a RUNNING core halts, faults or executes one instruction to its end (70_reset_and_hazards.md R136). -/
def Obligations.EveryStepHaltsFaultsOrExecutes : Prop :=
  ∀ s : State, s.STATUS = .running →
    (s.PLEN.toNat ≤ s.pc.toNat ∧ step s = .next { s with STATUS := .halted }) ∨
    (s.pc.toNat < s.PLEN.toNat ∧ ∃ c, step s = faulted s c) ∨
    (s.pc.toNat < s.PLEN.toNat ∧ ∃ i t, decode (s.IMEM.readWord s.pc) = .ok i ∧ exec i s = .next t ∧
      t.STATUS = .running ∧ step s = .next { t with pc := t.pc + 1 })

/-! ## Faults (60_exceptions.md) -/

/-- Faults are precise (R113): an instruction that raises a fault, by a step or by a host Execute, changes STATUS alone, to
FAULTED with the code of the cause; no later step clears it. That `step` answers the same state in FAULTED, where the
sequencer takes no step, is the model's choice (log 7). -/
def Obligations.FaultsArePrecise : Prop :=
  (∀ (i : Instr) (s t : State) (c : FaultCause), s.STATUS.isFaulted = false → exec i s = .next t →
    t.STATUS = .faulted c → t = { s with STATUS := .faulted c }) ∧
  (∀ (s t : State) (c : FaultCause), s.STATUS = .running → step s = .next t →
    t.STATUS = .faulted c → t = { s with STATUS := .faulted c }) ∧
  (∀ (w : InstrWord) (s t : State) (c : FaultCause), s.STATUS = .idle → hostOp (.execute w) s = .next t →
    t.STATUS = .faulted c → t = { s with STATUS := .faulted c }) ∧
  (∀ (s : State) (c : FaultCause), s.STATUS = .faulted c →
    s.statusWord.extractLsb' 0 2 = 3 ∧ s.statusWord.extractLsb' 2 4 = c.code ∧ step s = .next s)

/-- The fields of the STATUS word (10_state.md R23) and the codes of the causes (R112). -/
def Obligations.StatusWordHasTheSpecFields : Prop :=
  (∀ s : State, s.statusWord.extractLsb' 6 10 = 0) ∧
  (∀ s : State, s.STATUS = .idle → s.statusWord.extractLsb' 0 2 = 0 ∧ s.statusWord.extractLsb' 2 4 = 0) ∧
  (∀ s : State, s.STATUS = .running → s.statusWord.extractLsb' 0 2 = 1 ∧ s.statusWord.extractLsb' 2 4 = 0) ∧
  (∀ s : State, s.STATUS = .halted → s.statusWord.extractLsb' 0 2 = 2 ∧ s.statusWord.extractLsb' 2 4 = 0) ∧
  (∀ (s : State) (c : FaultCause), s.STATUS = .faulted c →
    s.statusWord.extractLsb' 0 2 = 3 ∧ s.statusWord.extractLsb' 2 4 =
      match c with
      | .illegalInstruction => 1
      | .invalidOperand => 2
      | .incompleteOperands => 3
      | .arityError => 4
      | .stackUnderflow => 5
      | .stackOverflow => 6
      | .divisionByZero => 7
      | .jumpOutOfBounds => 8
      | .negativeShift => 9)

/-- Each cause is raised only by the instructions the table of R112 lists for it, and only when the checks before it in the
order of R114 have passed: operand-value faults come only where the depth check did. -/
def Obligations.FaultsComeFromTheInstructionsListed : Prop :=
  ∀ (i : Instr) (s t : State) (c : FaultCause), s.STATUS.isFaulted = false → exec i s = .next t → t.STATUS = .faulted c →
    match c with
    | .illegalInstruction => False
    | .invalidOperand => i ∈ badlitShapes
    | .incompleteOperands => i ∈ incompleteShapes
    | .arityError => i ∈ arityShapes
    | .stackUnderflow =>
      (i ∈ [.pop, .incStack, .decStack, .jeStack, .jmaStack, .jneStack] ∧ s.depth = 0) ∨
      ((i ∈ binaryStackForms ∨ i = .cmpStack) ∧ s.depth < 2)
    | .stackOverflow => (i = .pushReg ∨ ∃ imm, i = .pushLit imm) ∧ s.depth = s.SDEPTH
    | .divisionByZero => (i = .idivStack ∧ 2 ≤ s.depth) ∨ ∃ rs1 rs2 rd, i = .idivReg rs1 rs2 rd ∧ s.x.get rs2 = 0
    | .jumpOutOfBounds => i ∈ jumpStackForms ∧ 1 ≤ s.depth
    | .negativeShift =>
      ((i = .shlStack ∨ i = .shrStack) ∧ 2 ≤ s.depth) ∨
      ∃ rs1 rs2 rd, (i = .shlReg rs1 rs2 rd ∨ i = .shrReg rs1 rs2 rd) ∧ sval (s.x.get rs2) < 0

/-! ## The instructions -/

/-- `push` in all its shapes (41_stack_transfer.md R81). -/
def Obligations.PushFollowsItsRule : Prop :=
  (decode 0x00000001#32 = .ok .pushReg ∧
    (∀ imm : Index, decode (imm ++ 0#8 ++ 1#3 ++ 1#5) = .ok (.pushLit imm)) ∧
    decode 0x00000041#32 = .ok .pushFm2 ∧ decode 0x00000061#32 = .ok .pushFm3 ∧
    decode 0x00000081#32 = .ok .pushFm4 ∧ decode 0x000000A1#32 = .ok .pushFm5) ∧
  ∀ s : State,
    (s.depth = s.SDEPTH → exec .pushReg s = faulted s .stackOverflow ∧
      ∀ imm, exec (.pushLit imm) s = faulted s .stackOverflow) ∧
    (s.depth ≠ s.SDEPTH →
      exec .pushReg s = .next { s with
        stack := s.x.reg_a :: s.stack
        x := ⟨s.x.reg_b, s.x.reg_c, s.x.reg_d, s.x.reg_e, s.x.reg_f, s.x.reg_g, s.x.reg_h, 0⟩ } ∧
      ∀ imm, exec (.pushLit imm) s = .next { s with stack := wrapN s.N (sval imm) :: s.stack }) ∧
    exec .pushFm2 s = faulted s .arityError ∧ exec .pushFm3 s = faulted s .arityError ∧
    exec .pushFm4 s = faulted s .arityError ∧ exec .pushFm5 s = faulted s .invalidOperand

/-- `pop` in all its shapes (41_stack_transfer.md R82). -/
def Obligations.PopFollowsItsRule : Prop :=
  (decode 0x00000002#32 = .ok .pop ∧ decode 0x00000022#32 = .ok .popFm1 ∧ decode 0x00000042#32 = .ok .popFm2 ∧
    decode 0x00000062#32 = .ok .popFm3 ∧ decode 0x00000082#32 = .ok .popFm4) ∧
  ∀ s : State,
    (s.stack = [] → exec .pop s = faulted s .stackUnderflow) ∧
    (∀ v rest, s.stack = v :: rest → exec .pop s = .next { s with
      stack := rest
      x := ⟨v, s.x.reg_a, s.x.reg_b, s.x.reg_c, s.x.reg_d, s.x.reg_e, s.x.reg_f, s.x.reg_g⟩ }) ∧
    exec .popFm1 s = faulted s .arityError ∧ exec .popFm2 s = faulted s .arityError ∧
    exec .popFm3 s = faulted s .arityError ∧ exec .popFm4 s = faulted s .arityError

/-- `add` in all its shapes (42 R87). -/
def Obligations.AddFollowsItsRule : Prop :=
  Binary 3 .addStack .addReg .addFm1 .addFm2 .addFm4 (fun n a b => wrapN n (sval a + sval b))
    (fun _ _ => none)

/-- `sub` in all its shapes (42 R88). -/
def Obligations.SubFollowsItsRule : Prop :=
  Binary 4 .subStack .subReg .subFm1 .subFm2 .subFm4 (fun n a b => wrapN n (sval a - sval b))
    (fun _ _ => none)

/-- `imul` in all its shapes (42 R89). -/
def Obligations.ImulFollowsItsRule : Prop :=
  Binary 7 .imulStack .imulReg .imulFm1 .imulFm2 .imulFm4 (fun n a b => wrapN n (sval a * sval b))
    (fun _ _ => none)

/-- `idiv` in all its shapes (42 R90). -/
def Obligations.IdivFollowsItsRule : Prop :=
  Binary 8 .idivStack .idivReg .idivFm1 .idivFm2 .idivFm4 (fun n a b => wrapN n ⌊(sval a : ℚ) / (sval b : ℚ)⌋)
    (fun _ b => if sval b = 0 then some .divisionByZero else none)

/-- `and` in all its shapes (42 R91). -/
def Obligations.AndFollowsItsRule : Prop :=
  Binary 9 .andStack .andReg .andFm1 .andFm2 .andFm4 (fun _ a b => a &&& b)
    (fun _ _ => none)

/-- `or` in all its shapes (42 R92). -/
def Obligations.OrFollowsItsRule : Prop :=
  Binary 10 .orStack .orReg .orFm1 .orFm2 .orFm4 (fun _ a b => a ||| b)
    (fun _ _ => none)

/-- `xor` in all its shapes (42 R93). -/
def Obligations.XorFollowsItsRule : Prop :=
  Binary 11 .xorStack .xorReg .xorFm1 .xorFm2 .xorFm4 (fun _ a b => a ^^^ b)
    (fun _ _ => none)

/-- `shl` in all its shapes (42 R94). -/
def Obligations.ShlFollowsItsRule : Prop :=
  Binary 12 .shlStack .shlReg .shlFm1 .shlFm2 .shlFm4 (fun n a b => wrapN n (sval a * 2 ^ (sval b).toNat))
    (fun _ b => if sval b < 0 then some .negativeShift else none)

/-- `shr` in all its shapes (42 R95). -/
def Obligations.ShrFollowsItsRule : Prop :=
  Binary 13 .shrStack .shrReg .shrFm1 .shrFm2 .shrFm4 (fun n a b => wrapN n ⌊(sval a : ℚ) / 2 ^ (sval b).toNat⌋)
    (fun _ b => if sval b < 0 then some .negativeShift else none)

/-- `inc` in all its shapes (42_arithmetic.md R96). -/
def Obligations.IncFollowsItsRule : Prop :=
  Unary 5 .incStack .incReg .incFm2 .incFm3 .incFm4 1

/-- `dec` in all its shapes (42_arithmetic.md R97). -/
def Obligations.DecFollowsItsRule : Prop :=
  Unary 6 .decStack .decReg .decFm2 .decFm3 .decFm4 (-1)

/-- `cmp` in all its shapes (43_compare.md R99). -/
def Obligations.CmpFollowsItsRule : Prop :=
  (decode 0x0000000E#32 = .ok .cmpStack ∧ decode 0x0000002E#32 = .ok .cmpFm1 ∧ decode 0x0000006E#32 = .ok .cmpFm3 ∧
    decode 0x0000008E#32 = .ok .cmpFm4 ∧
    ∀ f1 f2 : BitVec 3, decode (0#18 ++ f2 ++ f1 ++ 2#3 ++ 14#5) = .ok (.cmpReg (Reg.ofField f1) (Reg.ofField f2))) ∧
  ∀ s : State,
    (∀ rs1 rs2, exec (.cmpReg rs1 rs2) s = .next { s with
      Z := decide (s.x.get rs1 = s.x.get rs2)
      P := decide (sval (s.x.get rs1) > sval (s.x.get rs2)) }) ∧
    (s.depth < 2 → exec .cmpStack s = faulted s .stackUnderflow) ∧
    (∀ a b rest, s.stack = b :: a :: rest →
      exec .cmpStack s = .next { s with Z := decide (a = b), P := decide (sval a > sval b) }) ∧
    exec .cmpFm1 s = faulted s .incompleteOperands ∧ exec .cmpFm3 s = faulted s .arityError ∧
    exec .cmpFm4 s = faulted s .arityError

/-- `je` in all its shapes (44_jumps.md R106). -/
def Obligations.JeFollowsItsRule : Prop :=
  Jump 15 .jeStack .jeLit .jeFm2 .jeFm3 .jeFm4 .jeFm5 (fun s => s.Z)

/-- `jma` in all its shapes (44_jumps.md R107). -/
def Obligations.JmaFollowsItsRule : Prop :=
  Jump 16 .jmaStack .jmaLit .jmaFm2 .jmaFm3 .jmaFm4 .jmaFm5 (fun s => !s.Z)

/-- `jne` in all its shapes (44_jumps.md R108). -/
def Obligations.JneFollowsItsRule : Prop :=
  Jump 17 .jneStack .jneLit .jneFm2 .jneFm3 .jneFm4 .jneFm5 (fun s => !s.Z)

/-- `skip` in all its shapes (45_skip.md R110): with the sequencer's increment `pc` advances by 1 and nothing else changes. -/
def Obligations.SkipFollowsItsRule : Prop :=
  (decode 0x00000012#32 = .ok .skip ∧ decode 0x00000032#32 = .ok .skipFm1 ∧ decode 0x00000052#32 = .ok .skipFm2 ∧
    decode 0x00000072#32 = .ok .skipFm3 ∧ decode 0x00000092#32 = .ok .skipFm4) ∧
  (∀ s : State, exec .skip s = .next s ∧
    exec .skipFm1 s = faulted s .arityError ∧ exec .skipFm2 s = faulted s .arityError ∧
    exec .skipFm3 s = faulted s .arityError ∧ exec .skipFm4 s = faulted s .arityError) ∧
  ∀ s : State, aboutToRun s .skip → step s = .next { s with pc := s.pc + 1 }

/-! ## What the instructions compute -/

/-- The outcome table of `cmp` (43_compare.md R100), both forms. -/
def Obligations.CompareOutcomeTable : Prop :=
  ∀ s : State,
    (∀ rs1 rs2, ∃ t, exec (.cmpReg rs1 rs2) s = .next t ∧
      (sval (s.x.get rs1) = sval (s.x.get rs2) → t.Z = true ∧ t.P = false) ∧
      (sval (s.x.get rs1) > sval (s.x.get rs2) → t.Z = false ∧ t.P = true) ∧
      (sval (s.x.get rs1) < sval (s.x.get rs2) → t.Z = false ∧ t.P = false)) ∧
    (∀ a b rest, s.stack = b :: a :: rest → ∃ t, exec .cmpStack s = .next t ∧
      (sval a = sval b → t.Z = true ∧ t.P = false) ∧
      (sval a > sval b → t.Z = false ∧ t.P = true) ∧
      (sval a < sval b → t.Z = false ∧ t.P = false))

/-- Results of `add`, `sub`, `imul` wrap modulo `2^N` and are exact when the exact result is in range (42_arithmetic.md
R85). -/
def Obligations.ArithmeticWrapsModuloTwoToTheN : Prop :=
  ∀ (s : State) (a b : BitVec s.N) (rest : List (BitVec s.N)), s.stack = b :: a :: rest →
    ∀ p ∈ [(Instr.addStack, sval a + sval b), (Instr.subStack, sval a - sval b), (Instr.imulStack, sval a * sval b)],
      ∃ r, exec p.1 s = .next { s with stack := r :: rest } ∧ uval r = p.2 % 2 ^ s.N ∧
        (-(2 ^ (s.N - 1)) ≤ p.2 → p.2 < 2 ^ (s.N - 1) → sval r = p.2)

/-- `idiv` rounds toward minus infinity at every sign combination; the one quotient that does not fit wraps to the dividend
(42_arithmetic.md R86, R90). -/
def Obligations.IdivRoundsTowardMinusInfinity : Prop :=
  ∀ (s : State) (a b : BitVec s.N) (rest : List (BitVec s.N)), s.stack = b :: a :: rest → sval b ≠ 0 →
    ∃ q, exec .idivStack s = .next { s with stack := q :: rest } ∧
      (sval a = -(2 ^ (s.N - 1)) ∧ sval b = -1 → q = a) ∧
      (¬ (sval a = -(2 ^ (s.N - 1)) ∧ sval b = -1) →
        ∃ rem, sval a = sval b * sval q + rem ∧ ((0 ≤ rem ∧ rem < sval b) ∨ (sval b < rem ∧ rem ≤ 0)))

/-- A shift amount is not reduced modulo `N`: an amount of `N` or more gives 0, or -1 for `shr` of a negative value; an amount
of 0 gives the value (42_arithmetic.md R94, R95). -/
def Obligations.LongShiftsLeaveOnlyTheSign : Prop :=
  ∀ (s : State) (a b : BitVec s.N) (rest : List (BitVec s.N)), s.stack = b :: a :: rest →
    ((s.N : Int) ≤ sval b →
      exec .shlStack s = .next { s with stack := 0 :: rest } ∧
      exec .shrStack s = .next { s with stack := (if sval a < 0 then BitVec.allOnes s.N else 0) :: rest }) ∧
    (sval b = 0 →
      exec .shlStack s = .next { s with stack := a :: rest } ∧ exec .shrStack s = .next { s with stack := a :: rest })

/-- `push` without a literal, then `pop`, is the identity (41_stack_transfer.md R83). -/
def Obligations.PushThenPopRestoresTheState : Prop :=
  ∀ s : State,
    (s.depth < s.SDEPTH → ∃ t, exec .pushReg s = .next t ∧ t.depth = s.depth + 1 ∧ exec .pop t = .next s) ∧
    (s.depth = s.SDEPTH → exec .pushReg s = faulted s .stackOverflow)

/-- Literal jumps (44_jumps.md R104): taken, the handler PC is `(T - 2) mod 2^16` and the step lands on index `T - 1`; not
taken, the step falls through; a target beyond the program is not checked and the next step halts. -/
def Obligations.LiteralJumpLandsOnItsLine : Prop :=
  (∀ (s : State) (i : Instr) (target : Index), takenLiteral i target s →
    exec i s = .next { s with pc := BitVec.ofInt 16 (uval target - 2) }) ∧
  (∀ (s : State) (i : Instr) (target : Index), aboutToRun s i → takenLiteral i target s →
    step s = .next { s with pc := BitVec.ofNat 16 (target.toNat - 1) } ∧
    (s.PLEN.toNat ≤ target.toNat - 1 → step { s with pc := BitVec.ofNat 16 (target.toNat - 1) } =
      .next { s with pc := BitVec.ofNat 16 (target.toNat - 1), STATUS := .halted })) ∧
  (∀ (s : State) (i : Instr) (target : Index), aboutToRun s i → untakenLiteral i target s →
    exec i s = .next s ∧ step s = .next { s with pc := s.pc + 1 })

/-- Stack-form jumps in bounds (44_jumps.md R105 with the increment of 40_sequencer.md R74): the offset `d` is popped whether or
not the jump is taken; taken, the step lands on `pc + d + 1`. -/
def Obligations.StackJumpLandsPastItsOffset : Prop :=
  ∀ (s : State) (i : Instr) (d : BitVec s.N) (rest : List (BitVec s.N)), aboutToRun s i → i ∈ jumpStackForms →
    s.stack = d :: rest → 0 ≤ uval s.pc + sval d → uval s.pc + sval d < uval s.PLEN →
    ∃ t, step s = .next { s with stack := rest, pc := t } ∧
      (takenStack i s → uval t = uval s.pc + sval d + 1) ∧ (¬ takenStack i s → uval t = uval s.pc + 1)

/-- `jma` and `jne` are distinct opcodes, 16 and 17, with identical behaviour in every state (44_jumps.md R109). -/
def Obligations.JmaAndJneBehaveAlike : Prop :=
  (opField (encode .jmaStack) = 16 ∧ opField (encode .jneStack) = 17) ∧
  ∀ s : State, exec .jmaStack s = exec .jneStack s ∧ (∀ target, exec (.jmaLit target) s = exec (.jneLit target) s) ∧
    exec .jmaFm2 s = exec .jneFm2 s ∧ exec .jmaFm3 s = exec .jneFm3 s ∧ exec .jmaFm4 s = exec .jneFm4 s ∧
    exec .jmaFm5 s = exec .jneFm5 s

/-- No instruction and no step reads the flag `P` (10_state.md R19): two states that differ in `P` alone have next states that
differ at most in `P`. Outside RUNNING the step answers the same state, which is the model's choice (log 7). -/
def Obligations.PositiveFlagIsNeverRead : Prop :=
  (∀ (i : Instr) (s : State) (p : Bool), ∃ t u, exec i s = .next t ∧ exec i { s with P := p } = .next u ∧
    { u with P := t.P } = t) ∧
  ∀ (s : State) (p : Bool), ∃ t u, step s = .next t ∧ step { s with P := p } = .next u ∧ { u with P := t.P } = t

/-! ## Frames over all instructions -/

/-- The flags are updated only by `cmp` (10_state.md R19, 42_arithmetic.md R98). -/
def Obligations.OnlyCompareWritesTheFlags : Prop :=
  ∀ (i : Instr) (s t : State), exec i s = .next t → i ≠ .cmpStack → (∀ rs1 rs2, i ≠ .cmpReg rs1 rs2) →
    t.Z = s.Z ∧ t.P = s.P

/-- An instruction that is none of the writers of 10_state.md R12 leaves the whole register file as it is. -/
def Obligations.RegistersChangeOnlyWhereListed : Prop :=
  ∀ (i : Instr) (s : State), writesRegisters i = false →
    ∃ stack z p pc status, exec i s =
      .next { s with stack := stack, Z := z, P := p, pc := pc, STATUS := status }

/-- How `SP` changes (10_state.md R16): +1 for `push`, -1 for `pop`, the stack forms of the binary operators and of the jumps,
0 for everything else and for every instruction that faults. -/
def Obligations.StackPointerMovesAsListed : Prop :=
  ∀ (i : Instr) (s t : State), s.STATUS.isFaulted = false → exec i s = .next t →
    t.SP = s.SP + (if t.STATUS.isFaulted then 0 else spMove i)

/-- For every instruction except a jump whose condition holds, the handler PC is `pc` (40_sequencer.md R73). -/
def Obligations.HandlersMovePcOnlyInTakenJumps : Prop :=
  ∀ (i : Instr) (s t : State), exec i s = .next t → t.pc ≠ s.pc → (∃ target, takenLiteral i target s) ∨ takenStack i s

/-- Every instruction answers a next state in which instruction memory, `PLEN` and the parameters are as they were, and STATUS
is as it was or FAULTED (40_sequencer.md R73, 20_memory.md R48, 10_state.md R24). -/
def Obligations.InstructionsKeepProgramAndParameters : Prop :=
  ∀ (i : Instr) (s : State), ∃ x stack z p pc status,
    exec i s = .next { s with x := x, stack := stack, Z := z, P := p, pc := pc, STATUS := status } ∧
    (status = s.STATUS ∨ ∃ c, status = .faulted c)

/-! ## Invariants -/

/-- Every step keeps the invariant, the parameters, the program length and instruction memory. Outside RUNNING the step answers
the same state, which is the model's choice (log 7). -/
def Obligations.StepKeepsTheInvariant : Prop :=
  ∀ s t : State, s.Inv → step s = .next t →
    t.Inv ∧ t.N = s.N ∧ t.SDEPTH = s.SDEPTH ∧ t.SPW = s.SPW ∧ t.PLEN = s.PLEN ∧ t.IMEM = s.IMEM

/-- Every host operation keeps the invariant and the parameters. -/
def Obligations.HostOperationsKeepTheInvariant : Prop :=
  ∀ (op : HostOp) (s t : State), s.Inv → hostOp op s = .next t →
    t.Inv ∧ t.N = s.N ∧ t.SDEPTH = s.SDEPTH ∧ t.SPW = s.SPW

/-- The reset state meets the invariant, for this instance, whose parameters the model holds as constants known only to be in
range (log 1), and for any parameters in range. -/
def Obligations.ResetStateMeetsTheInvariant : Prop :=
  State.reset.Inv ∧ ∀ n d w : Nat, 16 ≤ n → 2 ≤ d → d ≤ 2 ^ (w - 1) → (State.resetOf n d w).Inv

/-- Every state an instance reaches from power-on, by steps and host operations in any order, meets the invariant. -/
def Obligations.ReachableStatesMeetTheInvariant : Prop :=
  ∀ (n d w : Nat) (s : State), 16 ≤ n → 2 ≤ d → d ≤ 2 ^ (w - 1) → Reachable n d w s →
    s.Inv ∧ s.N = n ∧ s.SDEPTH = d ∧ s.SPW = w

/-- Where `pc` can stand after a step that fetched (40_sequencer.md R75): at most at `PLEN`, except after a literal jump to a
line beyond `PLEN`, which leaves `pc = T - 1`. -/
def Obligations.PcStaysWithinTheProgram : Prop :=
  ∀ s t : State, s.STATUS = .running → s.pc.toNat < s.PLEN.toNat → step s = .next t →
    t.pc.toNat ≤ t.PLEN.toNat ∨
    ∃ i target, decode (s.IMEM.readWord s.pc) = .ok i ∧ takenLiteral i target s ∧ t.PLEN.toNat < target.toNat ∧
      t.pc.toNat = target.toNat - 1

/-! ## The host interface -/

/-- `Reset` in every state, and power-on is a `Reset` (70_reset_and_hazards.md R127). -/
def Obligations.HostResetSetsEveryRegister : Prop :=
  (∀ s : State, ∃ t, hostOp .reset s = .next t ∧ (∀ r, t.x.get r = 0) ∧ t.SP = -1 ∧ t.Z = false ∧ t.P = false ∧
    t.pc = 0 ∧ t.PLEN = 0 ∧ t.statusWord = 0 ∧ t.STATUS = .idle ∧ t.IMEM = s.IMEM ∧
    t.N = s.N ∧ t.SDEPTH = s.SDEPTH ∧ t.SPW = s.SPW) ∧
  hostOp .reset State.reset = .next State.reset

/-- The state after a power-on reset (70_reset_and_hazards.md R127, 10_state.md R26). That this instance's parameters are
constants known only to be in the ranges of 00_scope.md R5 is the model's choice (log 1). -/
def Obligations.ResetStateHasTheResetValues : Prop :=
  (∀ r, State.reset.x.get r = 0) ∧ State.reset.SP = -1 ∧ State.reset.Z = false ∧ State.reset.P = false ∧
    State.reset.pc = 0 ∧ State.reset.PLEN = 0 ∧ State.reset.statusWord = 0 ∧ 16 ≤ State.reset.N ∧ 2 ≤ State.reset.SDEPTH ∧
    State.reset.SDEPTH ≤ 2 ^ (State.reset.SPW - 1)

/-- The host operations, the states that accept them and their effects (10_state.md R34). -/
def Obligations.HostOperationsActOnlyInIdle : Prop :=
  (∀ s : State, s.STATUS = .idle →
    (∀ i w, ∃ m, hostOp (.writeIMEM i w) s = .next { s with IMEM := m } ∧
      ∀ j, m.readWord j = if j = i then w else s.IMEM.readWord j) ∧
    (∀ len, hostOp (.writePLEN len) s = .next { s with PLEN := len }) ∧
    hostOp .start s = .next { s with STATUS := .running } ∧
    (∀ w e, decode w = .error e → hostOp (.execute w) s = faulted s .illegalInstruction) ∧
    (∀ w i, decode w = .ok i → hostOp (.execute w) s = exec i s)) ∧
  (∀ (s : State) (op : HostOp), s.STATUS ≠ .idle → op ≠ .reset → hostOp op s = .refused .hostOpOutsideIdle)

/-- Host `Execute` (40_sequencer.md R80): a legal word runs as its handler does, with no halt test and no increment; STATUS
stays IDLE unless a fault is raised; a taken `je 5` leaves `pc = 3` and a `je 5` not taken leaves `pc` unchanged; it is
accepted only in IDLE (outside it the model refuses it, as 92 D30 says: log 8). -/
def Obligations.HostExecuteAddsNoIncrement : Prop :=
  (∀ (s : State) (w : InstrWord), s.STATUS = .idle → ∃ t, hostOp (.execute w) s = .next t ∧
    (t.STATUS = .idle ∨ t.STATUS.isFaulted = true) ∧
    (∀ e, decode w = .error e → t = { s with STATUS := .faulted .illegalInstruction }) ∧
    ∀ i, decode w = .ok i → exec i s = .next t) ∧
  (∀ s : State, s.STATUS = .idle → hostOp (.execute 0x0005002F#32) s = .next { s with pc := if s.Z then 3 else s.pc }) ∧
  ∀ (s : State) (w : InstrWord), s.STATUS ≠ .idle → hostOp (.execute w) s = .refused .hostOpOutsideIdle

/-- Instruction memory reads back what the host wrote at an index, and every other index is unchanged (20_memory.md R48). -/
def Obligations.InstructionMemoryReadsBackWrites : Prop :=
  ∀ (m : Memory) (i j : Index) (w : InstrWord), (m.writeWord i w).readWord j = if j = i then w else m.readWord j

/-- The boot sequence (70_reset_and_hazards.md R129) leaves a RUNNING core at index 0 in the reset state, with the words loaded
from index 0 on, `PLEN` their number, and instruction memory beyond them as it was. -/
def Obligations.BootLoadsTheWordsAndStarts : Prop :=
  ∀ (words : List InstrWord) (s : State), words.length ≤ 65535 → ∃ m,
    boot words s = .next { State.resetOf s.N s.SDEPTH s.SPW with
      PLEN := BitVec.ofNat 16 words.length, STATUS := .running, IMEM := m } ∧
    (∀ k (h : k < words.length), m.readWord (BitVec.ofNat 16 k) = words[k]) ∧
    ∀ j : Index, words.length ≤ j.toNat → m.readWord j = s.IMEM.readWord j

/-- The shifts of the register file by index (10_state.md R13, R14). -/
def Obligations.RegisterFileShiftsByOne : Prop :=
  ∀ (n : Nat) (f : RegFile n) (v : BitVec n),
    (∀ i : BitVec 3, i ≠ 7 → f.shiftLeft.get (Reg.ofField i) = f.get (Reg.ofField (i + 1))) ∧
    f.shiftLeft.get (Reg.ofField 7) = 0 ∧
    (∀ i : BitVec 3, i ≠ 0 → (f.shiftRight v).get (Reg.ofField i) = f.get (Reg.ofField (i - 1))) ∧
    (f.shiftRight v).get (Reg.ofField 0) = v

/-- Host reads of the stack (10_state.md R35, R17): every live cell is read, the top cell at index `SP`; a dead cell is
refused; and the register of `SPW` bits reads as `SP`, whatever width in range it has (00_scope.md R5). -/
def Obligations.HostReadsExactlyTheLiveCells : Prop :=
  (∀ (s : State) (i : Nat), i < s.depth → ∃ v, readCell s i = .ok v) ∧
  (∀ (s : State) (v : BitVec s.N) (rest : List (BitVec s.N)), s.stack = v :: rest →
    s.SP = (rest.length : Int) ∧ readCell s rest.length = .ok v) ∧
  (∀ (s : State) (i : Nat), s.depth ≤ i → readCell s i = .error .deadCellRead) ∧
  (∀ s : State, s.Inv → readSP s = s.SP)

/-- Every word the assembler makes of a source line is a legal encoding (30_encoding.md R60, R67). -/
def Obligations.AssembledLinesAreLegalWords : Prop :=
  ∀ (line : List Char) (w : InstrWord), assembleLine line = .ok w → ∃ i, decode w = .ok i

/-- A word placed where the next step fetches it is what the step fetches, and placing it changes nothing else but what the
fetch needs (the model's own operation, log 8). -/
def Obligations.PlacedWordIsTheNextFetched : Prop :=
  ∀ (s : State) (nbits w : Nat), ∃ pc plen m,
    s.withFetchWord nbits w = { s with pc := pc, PLEN := plen, STATUS := .running, IMEM := m } ∧
    (s.pc ≠ 0xFFFF → pc = s.pc) ∧ pc.toNat < plen.toNat ∧ m.readWord pc = BitVec.ofNat 32 (w % 2 ^ nbits)

end Statements
end

