-- ==== Sys2Proof/Laws/State.lean ====
section
/-! SUPPORT. One lemma per field per named update of the state, each true by `rfl`, so that no later proof unfolds a record
update; and the same for the state after reset. -/

namespace Sys2Proof.Machine

/-! ## `State.withRegs` -/

@[simp] theorem State.withRegs_N (s : State) (f : RegFile s.N) : (s.withRegs f).N = s.N := rfl
@[simp] theorem State.withRegs_SDEPTH (s : State) (f : RegFile s.N) : (s.withRegs f).SDEPTH = s.SDEPTH := rfl
@[simp] theorem State.withRegs_SPW (s : State) (f : RegFile s.N) : (s.withRegs f).SPW = s.SPW := rfl
@[simp] theorem State.withRegs_x (s : State) (f : RegFile s.N) : (s.withRegs f).x = f := rfl
@[simp] theorem State.withRegs_stack (s : State) (f : RegFile s.N) : (s.withRegs f).stack = s.stack := rfl
@[simp] theorem State.withRegs_Z (s : State) (f : RegFile s.N) : (s.withRegs f).Z = s.Z := rfl
@[simp] theorem State.withRegs_P (s : State) (f : RegFile s.N) : (s.withRegs f).P = s.P := rfl
@[simp] theorem State.withRegs_pc (s : State) (f : RegFile s.N) : (s.withRegs f).pc = s.pc := rfl
@[simp] theorem State.withRegs_PLEN (s : State) (f : RegFile s.N) : (s.withRegs f).PLEN = s.PLEN := rfl
@[simp] theorem State.withRegs_STATUS (s : State) (f : RegFile s.N) : (s.withRegs f).STATUS = s.STATUS := rfl
@[simp] theorem State.withRegs_IMEM (s : State) (f : RegFile s.N) : (s.withRegs f).IMEM = s.IMEM := rfl

/-! ## `State.pushCell` -/

@[simp] theorem State.pushCell_N (s : State) (v : BitVec s.N) : (s.pushCell v).N = s.N := rfl
@[simp] theorem State.pushCell_SDEPTH (s : State) (v : BitVec s.N) : (s.pushCell v).SDEPTH = s.SDEPTH := rfl
@[simp] theorem State.pushCell_SPW (s : State) (v : BitVec s.N) : (s.pushCell v).SPW = s.SPW := rfl
@[simp] theorem State.pushCell_x (s : State) (v : BitVec s.N) : (s.pushCell v).x = s.x := rfl
@[simp] theorem State.pushCell_stack (s : State) (v : BitVec s.N) : (s.pushCell v).stack = v :: s.stack := rfl
@[simp] theorem State.pushCell_Z (s : State) (v : BitVec s.N) : (s.pushCell v).Z = s.Z := rfl
@[simp] theorem State.pushCell_P (s : State) (v : BitVec s.N) : (s.pushCell v).P = s.P := rfl
@[simp] theorem State.pushCell_pc (s : State) (v : BitVec s.N) : (s.pushCell v).pc = s.pc := rfl
@[simp] theorem State.pushCell_PLEN (s : State) (v : BitVec s.N) : (s.pushCell v).PLEN = s.PLEN := rfl
@[simp] theorem State.pushCell_STATUS (s : State) (v : BitVec s.N) : (s.pushCell v).STATUS = s.STATUS := rfl
@[simp] theorem State.pushCell_IMEM (s : State) (v : BitVec s.N) : (s.pushCell v).IMEM = s.IMEM := rfl

/-! ## `State.popCell` -/

@[simp] theorem State.popCell_N (s : State) : (s.popCell).N = s.N := rfl
@[simp] theorem State.popCell_SDEPTH (s : State) : (s.popCell).SDEPTH = s.SDEPTH := rfl
@[simp] theorem State.popCell_SPW (s : State) : (s.popCell).SPW = s.SPW := rfl
@[simp] theorem State.popCell_x (s : State) : (s.popCell).x = s.x := rfl
@[simp] theorem State.popCell_stack (s : State) : (s.popCell).stack = s.stack.tail := rfl
@[simp] theorem State.popCell_Z (s : State) : (s.popCell).Z = s.Z := rfl
@[simp] theorem State.popCell_P (s : State) : (s.popCell).P = s.P := rfl
@[simp] theorem State.popCell_pc (s : State) : (s.popCell).pc = s.pc := rfl
@[simp] theorem State.popCell_PLEN (s : State) : (s.popCell).PLEN = s.PLEN := rfl
@[simp] theorem State.popCell_STATUS (s : State) : (s.popCell).STATUS = s.STATUS := rfl
@[simp] theorem State.popCell_IMEM (s : State) : (s.popCell).IMEM = s.IMEM := rfl

/-! ## `State.combine` -/

@[simp] theorem State.combine_N (s : State) (v : BitVec s.N) : (s.combine v).N = s.N := rfl
@[simp] theorem State.combine_SDEPTH (s : State) (v : BitVec s.N) : (s.combine v).SDEPTH = s.SDEPTH := rfl
@[simp] theorem State.combine_SPW (s : State) (v : BitVec s.N) : (s.combine v).SPW = s.SPW := rfl
@[simp] theorem State.combine_x (s : State) (v : BitVec s.N) : (s.combine v).x = s.x := rfl
@[simp] theorem State.combine_stack (s : State) (v : BitVec s.N) : (s.combine v).stack = v :: s.stack.drop 2 := rfl
@[simp] theorem State.combine_Z (s : State) (v : BitVec s.N) : (s.combine v).Z = s.Z := rfl
@[simp] theorem State.combine_P (s : State) (v : BitVec s.N) : (s.combine v).P = s.P := rfl
@[simp] theorem State.combine_pc (s : State) (v : BitVec s.N) : (s.combine v).pc = s.pc := rfl
@[simp] theorem State.combine_PLEN (s : State) (v : BitVec s.N) : (s.combine v).PLEN = s.PLEN := rfl
@[simp] theorem State.combine_STATUS (s : State) (v : BitVec s.N) : (s.combine v).STATUS = s.STATUS := rfl
@[simp] theorem State.combine_IMEM (s : State) (v : BitVec s.N) : (s.combine v).IMEM = s.IMEM := rfl

/-! ## `State.writeTop` -/

@[simp] theorem State.writeTop_N (s : State) (v : BitVec s.N) : (s.writeTop v).N = s.N := rfl
@[simp] theorem State.writeTop_SDEPTH (s : State) (v : BitVec s.N) : (s.writeTop v).SDEPTH = s.SDEPTH := rfl
@[simp] theorem State.writeTop_SPW (s : State) (v : BitVec s.N) : (s.writeTop v).SPW = s.SPW := rfl
@[simp] theorem State.writeTop_x (s : State) (v : BitVec s.N) : (s.writeTop v).x = s.x := rfl
@[simp] theorem State.writeTop_stack (s : State) (v : BitVec s.N) : (s.writeTop v).stack = v :: s.stack.tail := rfl
@[simp] theorem State.writeTop_Z (s : State) (v : BitVec s.N) : (s.writeTop v).Z = s.Z := rfl
@[simp] theorem State.writeTop_P (s : State) (v : BitVec s.N) : (s.writeTop v).P = s.P := rfl
@[simp] theorem State.writeTop_pc (s : State) (v : BitVec s.N) : (s.writeTop v).pc = s.pc := rfl
@[simp] theorem State.writeTop_PLEN (s : State) (v : BitVec s.N) : (s.writeTop v).PLEN = s.PLEN := rfl
@[simp] theorem State.writeTop_STATUS (s : State) (v : BitVec s.N) : (s.writeTop v).STATUS = s.STATUS := rfl
@[simp] theorem State.writeTop_IMEM (s : State) (v : BitVec s.N) : (s.writeTop v).IMEM = s.IMEM := rfl

/-! ## `State.latchFlags` -/

@[simp] theorem State.latchFlags_N (s : State) (a b : BitVec s.N) : (s.latchFlags a b).N = s.N := rfl
@[simp] theorem State.latchFlags_SDEPTH (s : State) (a b : BitVec s.N) : (s.latchFlags a b).SDEPTH = s.SDEPTH := rfl
@[simp] theorem State.latchFlags_SPW (s : State) (a b : BitVec s.N) : (s.latchFlags a b).SPW = s.SPW := rfl
@[simp] theorem State.latchFlags_x (s : State) (a b : BitVec s.N) : (s.latchFlags a b).x = s.x := rfl
@[simp] theorem State.latchFlags_stack (s : State) (a b : BitVec s.N) : (s.latchFlags a b).stack = s.stack := rfl
@[simp] theorem State.latchFlags_Z (s : State) (a b : BitVec s.N) : (s.latchFlags a b).Z = (a == b) := rfl
@[simp] theorem State.latchFlags_P (s : State) (a b : BitVec s.N) : (s.latchFlags a b).P = decide (sval a > sval b) := rfl
@[simp] theorem State.latchFlags_pc (s : State) (a b : BitVec s.N) : (s.latchFlags a b).pc = s.pc := rfl
@[simp] theorem State.latchFlags_PLEN (s : State) (a b : BitVec s.N) : (s.latchFlags a b).PLEN = s.PLEN := rfl
@[simp] theorem State.latchFlags_STATUS (s : State) (a b : BitVec s.N) : (s.latchFlags a b).STATUS = s.STATUS := rfl
@[simp] theorem State.latchFlags_IMEM (s : State) (a b : BitVec s.N) : (s.latchFlags a b).IMEM = s.IMEM := rfl

/-! ## `State.withPc` -/

@[simp] theorem State.withPc_N (s : State) (target : Index) : (s.withPc target).N = s.N := rfl
@[simp] theorem State.withPc_SDEPTH (s : State) (target : Index) : (s.withPc target).SDEPTH = s.SDEPTH := rfl
@[simp] theorem State.withPc_SPW (s : State) (target : Index) : (s.withPc target).SPW = s.SPW := rfl
@[simp] theorem State.withPc_x (s : State) (target : Index) : (s.withPc target).x = s.x := rfl
@[simp] theorem State.withPc_stack (s : State) (target : Index) : (s.withPc target).stack = s.stack := rfl
@[simp] theorem State.withPc_Z (s : State) (target : Index) : (s.withPc target).Z = s.Z := rfl
@[simp] theorem State.withPc_P (s : State) (target : Index) : (s.withPc target).P = s.P := rfl
@[simp] theorem State.withPc_pc (s : State) (target : Index) : (s.withPc target).pc = target := rfl
@[simp] theorem State.withPc_PLEN (s : State) (target : Index) : (s.withPc target).PLEN = s.PLEN := rfl
@[simp] theorem State.withPc_STATUS (s : State) (target : Index) : (s.withPc target).STATUS = s.STATUS := rfl
@[simp] theorem State.withPc_IMEM (s : State) (target : Index) : (s.withPc target).IMEM = s.IMEM := rfl

/-! ## `State.halt` -/

@[simp] theorem State.halt_N (s : State) : (s.halt).N = s.N := rfl
@[simp] theorem State.halt_SDEPTH (s : State) : (s.halt).SDEPTH = s.SDEPTH := rfl
@[simp] theorem State.halt_SPW (s : State) : (s.halt).SPW = s.SPW := rfl
@[simp] theorem State.halt_x (s : State) : (s.halt).x = s.x := rfl
@[simp] theorem State.halt_stack (s : State) : (s.halt).stack = s.stack := rfl
@[simp] theorem State.halt_Z (s : State) : (s.halt).Z = s.Z := rfl
@[simp] theorem State.halt_P (s : State) : (s.halt).P = s.P := rfl
@[simp] theorem State.halt_pc (s : State) : (s.halt).pc = s.pc := rfl
@[simp] theorem State.halt_PLEN (s : State) : (s.halt).PLEN = s.PLEN := rfl
@[simp] theorem State.halt_STATUS (s : State) : (s.halt).STATUS = .halted := rfl
@[simp] theorem State.halt_IMEM (s : State) : (s.halt).IMEM = s.IMEM := rfl

/-! ## `State.hostReset` -/

@[simp] theorem State.hostReset_N (s : State) : (s.hostReset).N = s.N := rfl
@[simp] theorem State.hostReset_SDEPTH (s : State) : (s.hostReset).SDEPTH = s.SDEPTH := rfl
@[simp] theorem State.hostReset_SPW (s : State) : (s.hostReset).SPW = s.SPW := rfl
@[simp] theorem State.hostReset_x (s : State) : (s.hostReset).x = RegFile.zero s.N := rfl
@[simp] theorem State.hostReset_stack (s : State) : (s.hostReset).stack = [] := rfl
@[simp] theorem State.hostReset_Z (s : State) : (s.hostReset).Z = false := rfl
@[simp] theorem State.hostReset_P (s : State) : (s.hostReset).P = false := rfl
@[simp] theorem State.hostReset_pc (s : State) : (s.hostReset).pc = 0 := rfl
@[simp] theorem State.hostReset_PLEN (s : State) : (s.hostReset).PLEN = 0 := rfl
@[simp] theorem State.hostReset_STATUS (s : State) : (s.hostReset).STATUS = .idle := rfl
@[simp] theorem State.hostReset_IMEM (s : State) : (s.hostReset).IMEM = s.IMEM := rfl

/-! ## The state after reset (70_reset_and_hazards.md R127) -/

@[simp] theorem State.resetOf_N (n d w : Nat) : (State.resetOf n d w).N = n := rfl
@[simp] theorem State.resetOf_SDEPTH (n d w : Nat) : (State.resetOf n d w).SDEPTH = d := rfl
@[simp] theorem State.resetOf_SPW (n d w : Nat) : (State.resetOf n d w).SPW = w := rfl
@[simp] theorem State.resetOf_x (n d w : Nat) : (State.resetOf n d w).x = RegFile.zero n := rfl
@[simp] theorem State.resetOf_stack (n d w : Nat) : (State.resetOf n d w).stack = [] := rfl
@[simp] theorem State.resetOf_Z (n d w : Nat) : (State.resetOf n d w).Z = false := rfl
@[simp] theorem State.resetOf_P (n d w : Nat) : (State.resetOf n d w).P = false := rfl
@[simp] theorem State.resetOf_pc (n d w : Nat) : (State.resetOf n d w).pc = 0 := rfl
@[simp] theorem State.resetOf_PLEN (n d w : Nat) : (State.resetOf n d w).PLEN = 0 := rfl
@[simp] theorem State.resetOf_STATUS (n d w : Nat) : (State.resetOf n d w).STATUS = .idle := rfl
@[simp] theorem State.resetOf_IMEM (n d w : Nat) : (State.resetOf n d w).IMEM = [] := rfl

/-! ## Derived readings -/

@[simp] theorem State.depth_pushCell (s : State) (v : BitVec s.N) : (s.pushCell v).depth = s.depth + 1 := rfl
@[simp] theorem State.depth_popCell (s : State) : s.popCell.depth = s.depth - 1 := List.length_tail
@[simp] theorem State.depth_resetOf (n d w : Nat) : (State.resetOf n d w).depth = 0 := rfl

/-- `SP` of the reset state is -1 (10_state.md R16). -/
@[simp] theorem State.SP_resetOf (n d w : Nat) : (State.resetOf n d w).SP = -1 := rfl

/-! ## The parameters of an instance (00_scope.md R5) -/

theorem width_ge : 16 ≤ Config.N := Nat.le_add_left 16 Config.extraWidth
theorem capacity_ge : 2 ≤ Config.SDEPTH := Nat.le_add_left 2 Config.extraDepth

/-- Every width from the least on holds the values of the stack pointer. -/
theorem pointer_range {sdepth w : Nat} (h : Config.leastSPW sdepth ≤ w) : sdepth ≤ 2 ^ (w - 1) :=
  (Nat.le_pow_clog Nat.one_lt_two sdepth).trans
    (Nat.pow_le_pow_right Nat.two_pos (Nat.le_sub_of_add_le h))

theorem pointer_ge : Config.SDEPTH ≤ 2 ^ (Config.SPW - 1) := pointer_range (Nat.le_add_right _ _)

/-- A pointer register wide enough for the capacity holds `SP` itself, at every depth up to the capacity (00_scope.md R5:
its width is not visible beyond the value). -/
theorem pointerRegister_value {s : State} (capacity : 2 ≤ s.SDEPTH) (pointer : s.SDEPTH ≤ 2 ^ (s.SPW - 1))
    (bounded : s.depth ≤ s.SDEPTH) : sval s.pointerRegister = s.SP := by
  have top : (s.depth : Int) ≤ 2 ^ (s.SPW - 1) := by exact_mod_cast bounded.trans pointer
  have pos : 0 < s.SPW := Nat.pos_of_ne_zero fun h => by
    rw [h] at pointer
    omega
  have low : (0 : Int) < 2 ^ (s.SPW - 1) := by positivity
  apply BitVec.toInt_ofInt_eq_self pos <;> simp only [State.SP] <;> omega

end Sys2Proof.Machine
end

