-- ==== Sys2Proof/Laws/Ops.lean ====
section
/-! SUPPORT. For each shared operation, one lemma that says once everything it can do: a proof cites it instead of unfolding
the operation. -/

namespace Sys2Proof.Machine

/-! ## The register file -/

/-- A register read after a register write (10_state.md R28). -/
theorem RegFile.get_set {n : Nat} (f : RegFile n) (r q : Reg) (v : BitVec n) :
    (f.set r v).get q = if q = r then v else f.get q := by
  cases r <;> cases q <;> rfl

@[simp] theorem RegFile.get_zero (n : Nat) (r : Reg) : (RegFile.zero n).get r = 0 := by cases r <;> rfl

/-- Two register files that read alike are equal. -/
theorem RegFile.eq_of_get {n : Nat} {f g : RegFile n} (h : ∀ r, f.get r = g.get r) : f = g := by
  have ha := h .a; have hb := h .b; have hc := h .c; have hd := h .d
  have he := h .e; have hf := h .f; have hg := h .g; have hh := h .h
  cases f; cases g
  simp only [RegFile.get] at ha hb hc hd he hf hg hh
  subst_vars
  rfl

/-! ## Faults and the sequencer -/

@[simp] theorem raise_eq (c : FaultCause) (s : State) : raise c s = .next { s with STATUS := .faulted c } := rfl

/-- Every answer of an operation is a next state: the machine has no fault of its own and the meanings refuse nothing. -/
theorem next_inj {s t : State} (h : (.next s : Result) = .next t) : s = t := by cases h; rfl

theorem postStep_faulted {s : State} (h : s.STATUS.isFaulted = true) : postStep s = s := by simp [postStep, h]

theorem postStep_advance {s : State} (h : s.STATUS.isFaulted = false) :
    postStep s = { s with pc := s.pc + 1 } := by simp [postStep, h]

@[simp] theorem afterHandler_next (s : State) : afterHandler (.next s) = .next (postStep s) := rfl

/-! ## Stack operands -/

/-- All that reading the top cell can answer (10_state.md R18). -/
theorem stackTop_cases (s : State) :
    (s.stack = [] ∧ s.stackTop = .error .stackUnderflow) ∨
    (∃ v rest, s.stack = v :: rest ∧ s.stackTop = .ok v) := by
  rcases h : s.stack with _ | ⟨v, rest⟩
  · exact .inl ⟨rfl, by simp [State.stackTop, h]⟩
  · exact .inr ⟨v, rest, rfl, by simp [State.stackTop, h]⟩

/-- All that reading the two top cells can answer (10_state.md R18). -/
theorem stackPair_cases (s : State) :
    (s.depth < 2 ∧ s.stackPair = .error .stackUnderflow) ∨
    (∃ b a rest, s.stack = b :: a :: rest ∧ s.stackPair = .ok (a, b)) := by
  rcases h : s.stack with _ | ⟨b, _ | ⟨a, rest⟩⟩
  · exact .inl ⟨by simp [State.depth, h], by simp [State.stackPair, h]⟩
  · exact .inl ⟨by simp [State.depth, h], by simp [State.stackPair, h]⟩
  · exact .inr ⟨b, a, rest, rfl, by simp [State.stackPair, h]⟩

/-! ## The ALU -/

/-- All that the ALU can answer (42_arithmetic.md R86). -/
theorem alu_cases {n : Nat} (f : AluOp) (a b : BitVec n) :
    (f = .div ∧ b = 0 ∧ alu f a b = .error .divisionByZero) ∨
    ((f = .shl ∨ f = .shr) ∧ sval b < 0 ∧ alu f a b = .error .negativeShift) ∨
    (¬ (f = .div ∧ b = 0) ∧ ¬ ((f = .shl ∨ f = .shr) ∧ sval b < 0) ∧ alu f a b = .ok (aluResult f a b)) := by
  have zero : sval b < 0 → b ≠ 0 := fun h e => by simp [sval, e] at h
  by_cases hd : f = .div ∧ b = 0
  · exact .inl ⟨hd.1, hd.2, by simp [alu, aluDz, hd.1, hd.2]⟩
  · have dz : aluDz f b = false := by
      simp only [aluDz, Bool.and_eq_false_iff, beq_eq_false_iff_ne]
      exact not_and_or.mp hd
    by_cases hs : (f = .shl ∨ f = .shr) ∧ sval b < 0
    · refine .inr (.inl ⟨hs.1, hs.2, ?_⟩)
      have nz := zero hs.2
      rcases hs.1 with rfl | rfl <;> simp_all [alu, aluDz, aluNs]
    · refine .inr (.inr ⟨hd, hs, ?_⟩)
      have ns : aluNs f b = false := by
        cases f <;> simp_all [aluNs]
      simp [alu, dz, ns]

/-! ## The shared forms of the arithmetic family -/

/-- Everything a binary operator's register form can do (42_arithmetic.md R84). -/
theorem binaryReg_cases {f : AluOp} {rs1 rs2 rd : Reg} {s t : State} (h : binaryReg f rs1 rs2 rd s = .next t) :
    (∃ c, alu f (s.x.get rs1) (s.x.get rs2) = .error c ∧ t = { s with STATUS := .faulted c }) ∨
    (∃ r, alu f (s.x.get rs1) (s.x.get rs2) = .ok r ∧ t = { s with x := s.x.set rd r }) := by
  unfold binaryReg at h
  split at h
  · exact .inl ⟨_, ‹_›, (next_inj h).symm⟩
  · exact .inr ⟨_, ‹_›, (next_inj h).symm⟩

/-- Everything a binary operator's stack form can do (42_arithmetic.md R84). -/
theorem binaryStack_cases {f : AluOp} {s t : State} (h : binaryStack f s = .next t) :
    (s.depth < 2 ∧ t = { s with STATUS := .faulted .stackUnderflow }) ∨
    (∃ b a rest c, s.stack = b :: a :: rest ∧ alu f a b = .error c ∧ t = { s with STATUS := .faulted c }) ∨
    (∃ b a rest r, s.stack = b :: a :: rest ∧ alu f a b = .ok r ∧ t = { s with stack := r :: rest }) := by
  unfold binaryStack at h
  rcases stackPair_cases s with ⟨low, e⟩ | ⟨b, a, rest, es, e⟩
  · rw [e] at h
    exact .inl ⟨low, (next_inj h).symm⟩
  · rw [e] at h
    rcases er : alu f a b with c | r <;> simp only [er] at h
    · exact .inr (.inl ⟨b, a, rest, c, es, er, (next_inj h).symm⟩)
    · refine .inr (.inr ⟨b, a, rest, r, es, er, (next_inj h).symm.trans ?_⟩)
      simp [State.combine, es]

/-- Everything `inc` and `dec` can do in register form (42_arithmetic.md R96, R97). -/
theorem unaryReg_cases {f : AluOp} {rs1 : Reg} {s t : State} (h : unaryReg f rs1 s = .next t) :
    (∃ c, alu f (s.x.get rs1) 0 = .error c ∧ t = { s with STATUS := .faulted c }) ∨
    (∃ r, alu f (s.x.get rs1) 0 = .ok r ∧ t = { s with x := s.x.set rs1 r }) := by
  unfold unaryReg at h
  split at h
  · exact .inl ⟨_, ‹_›, (next_inj h).symm⟩
  · exact .inr ⟨_, ‹_›, (next_inj h).symm⟩

/-- Everything `inc` and `dec` can do in stack form (42_arithmetic.md R96, R97). -/
theorem unaryStack_cases {f : AluOp} {s t : State} (h : unaryStack f s = .next t) :
    (s.stack = [] ∧ t = { s with STATUS := .faulted .stackUnderflow }) ∨
    (∃ a rest c, s.stack = a :: rest ∧ alu f a 0 = .error c ∧ t = { s with STATUS := .faulted c }) ∨
    (∃ a rest r, s.stack = a :: rest ∧ alu f a 0 = .ok r ∧ t = { s with stack := r :: rest }) := by
  unfold unaryStack at h
  rcases stackTop_cases s with ⟨low, e⟩ | ⟨a, rest, es, e⟩
  · rw [e] at h
    exact .inl ⟨low, (next_inj h).symm⟩
  · rw [e] at h
    rcases er : alu f a 0 with c | r <;> simp only [er] at h
    · exact .inr (.inl ⟨a, rest, c, es, er, (next_inj h).symm⟩)
    · refine .inr (.inr ⟨a, rest, r, es, er, (next_inj h).symm.trans ?_⟩)
      simp [State.writeTop, es]

/-! ## The branch control unit -/

/-- Everything a literal jump does (44_jumps.md R104). -/
theorem jumpLiteral_eq (c : Bool) (target : Index) (s : State) :
    jumpLiteral c target s = .next { s with pc := if c then target - 2 else s.pc } := by
  cases c <;> rfl

/-- Everything a stack-form jump can do (44_jumps.md R105). -/
theorem jumpStack_cases {c : Bool} {s t : State} (h : jumpStack c s = .next t) :
    (s.stack = [] ∧ t = { s with STATUS := .faulted .stackUnderflow }) ∨
    (∃ d rest, s.stack = d :: rest ∧ (jumpSum s d < 0 ∨ jumpSum s d ≥ uval s.PLEN) ∧
      t = { s with STATUS := .faulted .jumpOutOfBounds }) ∨
    (∃ d rest, s.stack = d :: rest ∧ 0 ≤ jumpSum s d ∧ jumpSum s d < uval s.PLEN ∧
      t = { s with stack := rest, pc := if c then BitVec.ofInt 16 (jumpSum s d) else s.pc }) := by
  unfold jumpStack at h
  rcases stackTop_cases s with ⟨low, e⟩ | ⟨d, rest, es, e⟩
  · rw [e] at h
    exact .inl ⟨low, (next_inj h).symm⟩
  · rw [e] at h
    by_cases ob : jumpSum s d < 0 ∨ jumpSum s d ≥ uval s.PLEN
    · refine .inr (.inl ⟨d, rest, es, ob, ?_⟩)
      have : jumpOutOfBounds s d = true := by simpa [jumpOutOfBounds] using ob
      simp only [this] at h
      exact (next_inj h).symm
    · refine .inr (.inr ⟨d, rest, es, by omega, by omega, ?_⟩)
      have : jumpOutOfBounds s d = false := by
        simpa [jumpOutOfBounds] using not_or.mp ob
      simp only [this] at h
      refine (next_inj h).symm.trans ?_
      cases c <;> simp [State.popCell, State.withPc, es]

end Sys2Proof.Machine
end

