-- ==== Sys2Proof/Laws/Alu.lean ====
section
/-! SUPPORT. The shifts of the ALU are the formulas of 42_arithmetic.md R86 for every amount: cutting the amount at the
width changes no result (log 10). -/

namespace Sys2Proof.Machine

/-- The exact product with a power of two at or above the width narrows to 0. -/
theorem wrapN_mul_two_pow {n k : Nat} (a : Int) (h : n ≤ k) : wrapN n (a * 2 ^ k) = 0 := by
  obtain ⟨d, rfl⟩ := Nat.exists_eq_add_of_le h
  apply BitVec.eq_of_toInt_eq
  rw [BitVec.toInt_ofInt, pow_add, show a * (2 ^ n * 2 ^ d) = (a * 2 ^ d) * ((2 ^ n : Nat) : Int) by push_cast; ring,
    Int.bmod_eq_zero_of_dvd (dvd_mul_left _ _)]
  simp

/-- `shl` is `wrapN(A * 2^B)` for every amount `B >= 0` (42_arithmetic.md R86). -/
theorem aluResult_shl {n : Nat} (a b : BitVec n) :
    aluResult .shl a b = wrapN n (sval a * 2 ^ (sval b).toNat) := by
  simp only [aluResult, shiftBy]
  rcases le_total (sval b).toNat n with h | h
  · rw [min_eq_left h]
  · rw [min_eq_right h, wrapN_mul_two_pow _ h, wrapN_mul_two_pow _ le_rfl]

/-- The floor quotient of an `n`-bit value by a power of two at or above `2^n` is its sign: 0 or -1. -/
theorem fdiv_two_pow_sign {n k : Nat} (a : BitVec n) (h : n ≤ k) :
    Int.fdiv (sval a) (2 ^ k) = if sval a < 0 then -1 else 0 := by
  have pos : (0 : Int) < 2 ^ k := by positivity
  have big : ((2 : Int) ^ n) ≤ 2 ^ k := pow_le_pow_right₀ (by norm_num) h
  have lo : -(2 : Int) ^ n ≤ 2 * sval a := by
    have := BitVec.le_two_mul_toInt (x := a)
    omega
  have hi : 2 * sval a < (2 : Int) ^ n := by
    have := BitVec.two_mul_toInt_lt (x := a)
    omega
  have up : (0 : Int) < 2 ^ n := by positivity
  rw [Int.fdiv_eq_ediv_of_nonneg _ pos.le]
  split
  · exact (Int.ediv_eq_iff_of_pos pos).mpr ⟨by omega, by omega⟩
  · exact Int.ediv_eq_zero_of_lt (by omega) (by omega)

/-- `shr` is `wrapN(floor(A / 2^B))` for every amount `B >= 0` (42_arithmetic.md R86). -/
theorem aluResult_shr {n : Nat} (a b : BitVec n) :
    aluResult .shr a b = wrapN n (Int.fdiv (sval a) (2 ^ (sval b).toNat)) := by
  simp only [aluResult, shiftBy]
  rcases le_total (sval b).toNat n with h | h
  · rw [min_eq_left h]
  · rw [min_eq_right h, fdiv_two_pow_sign a h, fdiv_two_pow_sign a le_rfl]

end Sys2Proof.Machine
end

