-- ==== Sys2Proof/Laws/Decode.lean ====
section
/-! SUPPORT. The small lemmas of the encoder and the decoder: what each field of an assembled word reads as, and the values of
the fields. -/

namespace Sys2Proof

@[simp] theorem Reg.ofField_toField (r : Reg) : Reg.ofField r.toField = r := by cases r <;> rfl

@[simp] theorem Reg.toField_ofField (f : BitVec 3) : (Reg.ofField f).toField = f := by
  revert f; decide

@[simp] theorem Opcode.ofField_toField (o : Opcode) : Opcode.ofField o.toField = some o := by cases o <;> rfl

/-- A number that names an opcode is that opcode's number (30_encoding.md R54). -/
theorem Opcode.toField_of_ofField {f : BitVec 5} {o : Opcode} (h : Opcode.ofField f = some o) : o.toField = f := by
  revert f o; decide

/-- Concatenation as arithmetic. -/
theorem toNat_concat {m n : Nat} (x : BitVec m) (y : BitVec n) :
    (x ++ y).toNat = x.toNat * 2 ^ n + y.toNat := by
  rw [BitVec.toNat_append, ← Nat.shiftLeft_add_eq_or_of_lt y.isLt, Nat.shiftLeft_eq]

/-- A slice of a word as arithmetic. -/
theorem toNat_slice {n : Nat} (w : BitVec n) (start len : Nat) :
    (w.extractLsb' start len).toNat = w.toNat / 2 ^ start % 2 ^ len := by
  rw [BitVec.extractLsb'_toNat, Nat.shiftRight_eq_div_pow]

/-- An assembled word as arithmetic: its payload above its form above its opcode (30_encoding.md R51). -/
theorem toNat_assemble (p : BitVec 24) (o : Opcode) (fm : Nat) :
    (assembleFields p o fm).toNat = p.toNat * 256 + fm % 8 * 32 + o.toField.toNat := by
  have h : (assembleFields p o fm).toNat = ((p ++ BitVec.ofNat 3 fm) ++ o.toField).toNat := rfl
  rw [h, toNat_concat, toNat_concat, BitVec.toNat_ofNat]
  omega

@[simp] theorem opField_assemble (p : BitVec 24) (o : Opcode) (fm : Nat) : opField (assembleFields p o fm) = o.toField := by
  apply BitVec.eq_of_toNat_eq
  have := o.toField.isLt
  rw [opField, toNat_slice, toNat_assemble]
  omega

@[simp] theorem fmField_assemble (p : BitVec 24) (o : Opcode) (fm : Nat) :
    fmField (assembleFields p o fm) = BitVec.ofNat 3 fm := by
  apply BitVec.eq_of_toNat_eq
  have := o.toField.isLt
  rw [fmField, toNat_slice, toNat_assemble, BitVec.toNat_ofNat]
  omega

/-- A field of an assembled word above the form field is a slice of its payload. -/
theorem slice_assemble (p : BitVec 24) (o : Opcode) (fm start len : Nat) :
    (assembleFields p o fm).extractLsb' (8 + start) len = p.extractLsb' start len := by
  apply BitVec.eq_of_toNat_eq
  have := o.toField.isLt
  rw [toNat_slice, toNat_slice, toNat_assemble, pow_add, ← Nat.div_div_eq_div_mul]
  congr 2
  omega

@[simp] theorem rs1Field_assemble (p : BitVec 24) (o : Opcode) (fm : Nat) :
    rs1Field (assembleFields p o fm) = p.extractLsb' 0 3 := slice_assemble p o fm 0 3
@[simp] theorem rs2Field_assemble (p : BitVec 24) (o : Opcode) (fm : Nat) :
    rs2Field (assembleFields p o fm) = p.extractLsb' 3 3 := slice_assemble p o fm 3 3
@[simp] theorem rdField_assemble (p : BitVec 24) (o : Opcode) (fm : Nat) :
    rdField (assembleFields p o fm) = p.extractLsb' 6 3 := slice_assemble p o fm 6 3
@[simp] theorem imm16Field_assemble (p : BitVec 24) (o : Opcode) (fm : Nat) :
    imm16Field (assembleFields p o fm) = p.extractLsb' 8 16 := slice_assemble p o fm 8 16

/-- Masking the payload bits of an assembled word masks its payload. -/
theorem mask_assemble (p m : BitVec 24) (o : Opcode) (fm : Nat) :
    assembleFields p o fm &&& (m ++ (0#8 : BitVec 8) : BitVec 32) = (p &&& m) ++ (0#8 : BitVec 8) := by
  have h : assembleFields p o fm = (p ++ (BitVec.ofNat 3 fm ++ o.toField) : BitVec 32) := by
    apply BitVec.eq_of_toNat_eq
    rw [toNat_assemble]
    have := toNat_concat p (BitVec.ofNat 3 fm ++ o.toField)
    rw [this, toNat_concat, BitVec.toNat_ofNat]
    have := o.toField.isLt
    omega
  rw [h]
  have := BitVec.and_append (x₁ := p) (x₂ := m) (y₁ := BitVec.ofNat 3 fm ++ o.toField) (y₂ := 0#8)
  simpa using this

/-! ## The must-be-zero bits of each format (30_encoding.md R52, R58) -/

theorem mbz_encodeN (o : Opcode) (fm : Nat) : encodeN o fm &&& Format.N.mbz = 0 := by
  have := mask_assemble 0 0xFFFFFF o fm
  exact this

theorem mbz_encodeR1 (o : Opcode) (fm : Nat) (r1 : Reg) : encodeR1 o fm r1 &&& Format.R1.mbz = 0 := by
  refine (mask_assemble _ 0xFFFFF8 o fm).trans ?_
  cases r1 <;> rfl

theorem mbz_encodeR2 (o : Opcode) (fm : Nat) (r1 r2 : Reg) : encodeR2 o fm r1 r2 &&& Format.R2.mbz = 0 := by
  refine (mask_assemble _ 0xFFFFC0 o fm).trans ?_
  cases r1 <;> cases r2 <;> rfl

theorem mbz_encodeR3 (o : Opcode) (fm : Nat) (r1 r2 r3 : Reg) : encodeR3 o fm r1 r2 r3 &&& Format.R3.mbz = 0 := by
  refine (mask_assemble _ 0xFFFE00 o fm).trans ?_
  cases r1 <;> cases r2 <;> cases r3 <;> rfl

theorem mbz_encodeI (o : Opcode) (fm : Nat) (imm : Index) : encodeI o fm imm &&& Format.I.mbz = 0 := by
  refine (mask_assemble _ 0x0000FF o fm).trans ?_
  have h : (imm ++ 0#8 : BitVec 24) &&& 0x0000FF = 0 := by
    have := BitVec.and_append (x₁ := imm) (x₂ := 0#16) (y₁ := 0#8) (y₂ := 0xFF#8)
    simpa using this
  rw [h]
  rfl

/-! ## The operand slices of each format's payload (30_encoding.md R51, R52) -/

theorem slice_payloadR1 (r1 : Reg) : (0#21 ++ r1.toField : BitVec 24).extractLsb' 0 3 = r1.toField := by
  cases r1 <;> rfl

theorem slice_payloadR2 (r1 r2 : Reg) :
    (0#18 ++ r2.toField ++ r1.toField : BitVec 24).extractLsb' 0 3 = r1.toField ∧
      (0#18 ++ r2.toField ++ r1.toField : BitVec 24).extractLsb' 3 3 = r2.toField := by
  cases r1 <;> cases r2 <;> exact ⟨rfl, rfl⟩

theorem slice_payloadR3 (r1 r2 r3 : Reg) :
    (0#15 ++ r3.toField ++ r2.toField ++ r1.toField : BitVec 24).extractLsb' 0 3 = r1.toField ∧
      (0#15 ++ r3.toField ++ r2.toField ++ r1.toField : BitVec 24).extractLsb' 3 3 = r2.toField ∧
        (0#15 ++ r3.toField ++ r2.toField ++ r1.toField : BitVec 24).extractLsb' 6 3 = r3.toField := by
  cases r1 <;> cases r2 <;> cases r3 <;> exact ⟨rfl, rfl, rfl⟩

theorem slice_payloadI (imm : Index) : (imm ++ 0#8 : BitVec 24).extractLsb' 8 16 = imm := by
  apply BitVec.eq_of_toNat_eq
  have h : (imm ++ 0#8 : BitVec 24).toNat = imm.toNat * 256 + 0 := toNat_concat imm (0#8)
  have := imm.isLt
  rw [toNat_slice, h]
  omega

/-! ## Decoding an assembled word (30_encoding.md R58) -/

/-- An assembled word decodes to what `build` makes of it when its class-table row is legal, its must-be-zero bits are 0 and
it is no literal jump to line 0. -/
theorem decode_assemble {p : BitVec 24} {o : Opcode} {fm : Nat} {f : Format} {c : DecodeClass} {i : Instr}
    (hr : classRow o (BitVec.ofNat 3 fm).toNat = (f, c)) (hc : c ≠ .illegal)
    (hm : assembleFields p o fm &&& f.mbz = 0) (hz : o.isJump = true → f = .I → p.extractLsb' 8 16 ≠ 0)
    (hb : build o (BitVec.ofNat 3 fm).toNat (assembleFields p o fm) = some i) :
    decode (assembleFields p o fm) = .ok i := by
  have nz : zeroTarget (assembleFields p o fm) = false := by
    simp only [zeroTarget, opField_assemble, Opcode.ofField_toField, fmField_assemble, hr, imm16Field_assemble]
    by_contra h
    simp only [Bool.not_eq_false, Bool.and_eq_true, beq_iff_eq] at h
    exact hz h.1.1 h.1.2 h.2
  simp only [decode, opField_assemble, Opcode.ofField_toField, fmField_assemble, hr, hc, hm, nz, hb, if_false, ne_eq,
    not_true_eq_false, Bool.false_eq_true]

/-- Everything a successful decode says of the word (30_encoding.md R58). -/
theorem decode_ok {w : InstrWord} {i : Instr} (h : decode w = .ok i) :
    ∃ o, Opcode.ofField (opField w) = some o ∧ (classRow o (fmField w).toNat).2 ≠ .illegal ∧
      w &&& (classRow o (fmField w).toNat).1.mbz = 0 ∧ zeroTarget w = false ∧ build o (fmField w).toNat w = some i := by
  unfold decode at h
  split at h
  · cases h
  · rename_i o ho
    split at h
    · cases h
    · split at h
      · cases h
      · split at h
        · cases h
        · split at h
          · cases h
          · rename_i hc hm hz _ j hb
            cases h
            exact ⟨o, ho, hc, not_not.mp hm, by simpa using hz, hb⟩

end Sys2Proof
end

