-- ==== Sys2Proof/Laws/Memory.lean ====
section
/-! SUPPORT. The laws of instruction memory: a byte reads back what was written, other bytes are unchanged, and every write
keeps the canonical form. -/

namespace Sys2Proof.Machine

@[simp] theorem Memory.lookup_nil (a : Nat) : Memory.lookup [] a = none := rfl

theorem Memory.lookup_cons (p : Host.Cell) (m : Memory) (a : Nat) :
    Memory.lookup (p :: m) a = if p.1 = a then some p.2 else Memory.lookup m a := rfl

/-- Everything a byte write does to what is stored. -/
theorem Memory.lookup_write (m : Memory) (a : Nat) (b : Byte) (c : Nat) :
    (m.write a b).lookup c = if a = c then some b else m.lookup c := by
  induction m with
  | nil => rfl
  | cons p m ih =>
    obtain ⟨k, v⟩ := p
    simp only [Memory.write]
    split
    · rfl
    · split
      · subst_vars
        simp only [Memory.lookup]
        split <;> rfl
      · rename_i hne
        simp only [Memory.lookup, ih]
        by_cases hk : k = c
        · simp [hk, show ¬ a = c from fun h => hne (h.trans hk.symm)]
        · simp [hk]

/-- Everything a byte write does to what is read. -/
theorem Memory.readByte_write (m : Memory) (a : Nat) (b : Byte) (c : Nat) :
    (m.write a b).readByte c = if a = c then b else m.readByte c := by
  simp only [Memory.readByte, Memory.lookup_write]
  by_cases h : a = c <;> simp [h]

/-- A pair of the memory after a write is the written one or one that was there. -/
theorem Memory.mem_write {m : Memory} {a : Nat} {b : Byte} {p : Host.Cell} (h : p ∈ m.write a b) :
    p = (a, b) ∨ p ∈ m := by
  induction m with
  | nil => exact .inl (List.mem_singleton.mp h)
  | cons q m ih =>
    obtain ⟨k, v⟩ := q
    simp only [Memory.write] at h
    split at h
    · exact List.mem_cons.mp h
    · split at h
      · exact (List.mem_cons.mp h).imp_right (List.mem_cons_of_mem _)
      · rcases List.mem_cons.mp h with h | h
        · exact .inr (h ▸ List.mem_cons_self)
        · exact (ih h).imp_right (List.mem_cons_of_mem _)

/-- A byte write inside `IMEM` keeps the canonical form. -/
theorem Memory.wf_write {m : Memory} (h : m.wf) {a : Nat} (ha : a < Config.imemBytes) (b : Byte) : (m.write a b).wf := by
  refine ⟨?_, fun p hp => (Memory.mem_write hp).elim (fun e => e ▸ ha) (h.2 p)⟩
  have sorted := h.1
  clear h
  induction m with
  | nil => exact List.pairwise_singleton _ _
  | cons q m ih =>
    obtain ⟨k, v⟩ := q
    obtain ⟨below, rest⟩ := List.pairwise_cons.mp sorted
    simp only [Memory.write]
    split
    · rename_i lt
      refine List.pairwise_cons.mpr ⟨fun p hp => ?_, sorted⟩
      rcases List.mem_cons.mp hp with rfl | hp
      · exact lt
      · exact lt.trans (below p hp)
    · split
      · rename_i eq
        exact List.pairwise_cons.mpr ⟨fun p hp => eq ▸ below p hp, rest⟩
      · refine List.pairwise_cons.mpr ⟨fun p hp => ?_, ih rest⟩
        rcases Memory.mem_write hp with rfl | hp
        · exact show k < a by omega
        · exact below p hp

/-- A word write keeps the canonical form. -/
theorem Memory.wf_writeWord {m : Memory} (h : m.wf) (i : Index) (w : InstrWord) : (m.writeWord i w).wf := by
  have : i.toNat < 65536 := i.isLt
  have inside : ∀ k, k < 4 → 4 * i.toNat + k < Config.imemBytes := fun k hk => by
    simp only [Config.imemBytes]; omega
  exact Memory.wf_write (Memory.wf_write (Memory.wf_write (Memory.wf_write h (inside 0 (by omega)) _)
    (inside 1 (by omega)) _) (inside 2 (by omega)) _) (inside 3 (by omega)) _

/-- The memory of the reset state has the canonical form. -/
theorem Memory.wf_reset : State.reset.IMEM.wf := ⟨List.Pairwise.nil, fun _ hp => nomatch hp⟩

end Sys2Proof.Machine
end

