-- ==== Sys2Proof/Laws/PerInstr.lean ====
section
/-! SUPPORT. Statements made of every instruction, one lemma per constructor of `Instr`. -/

namespace Sys2Proof.Laws.ShapeOfWord

/-- The word of an instruction has a legal shape: its opcode and form fields stand in the class table with a class that is
not ILLEGAL, and every must-be-zero bit of the format the table gives them is 0 (30_encoding.md R57, R58). -/
def Statement (i : Instr) : Prop :=
  (classTable (opField (encode i)) (fmField (encode i))).2 ≠ .illegal ∧
    encode i &&& (classTable (opField (encode i)) (fmField (encode i))).1.mbz = 0

/-- A word of a given opcode and form has a legal shape when the class table gives the pair a format whose must-be-zero bits
are 0 in it. -/
theorem of_row {p : BitVec 24} {o : Opcode} {fm : Nat} {f : Format} {c : DecodeClass} {w : InstrWord}
    (hw : w = assembleFields p o fm) (hr : classRow o (BitVec.ofNat 3 fm).toNat = (f, c)) (hc : c ≠ .illegal)
    (hm : w &&& f.mbz = 0) :
    (classTable (opField w) (fmField w)).2 ≠ .illegal ∧ w &&& (classTable (opField w) (fmField w)).1.mbz = 0 := by
  have ht : classTable (opField w) (fmField w) = (f, c) := by
    rw [hw, opField_assemble, fmField_assemble, classTable, Opcode.ofField_toField]
    exact hr
  rw [ht]
  exact ⟨hc, hm⟩

theorem of_encodeN {o : Opcode} {fm : Nat} {c : DecodeClass} (hr : classRow o (BitVec.ofNat 3 fm).toNat = (.N, c))
    (hc : c ≠ .illegal) :
    (classTable (opField (encodeN o fm)) (fmField (encodeN o fm))).2 ≠ .illegal ∧
      encodeN o fm &&& (classTable (opField (encodeN o fm)) (fmField (encodeN o fm))).1.mbz = 0 :=
  of_row rfl hr hc (mbz_encodeN o fm)

theorem pushReg : Statement .pushReg :=
  of_encodeN (by rfl) (by decide)
theorem pushLit (imm : Index) : Statement (.pushLit imm) :=
  of_row rfl (by rfl) (by decide) (mbz_encodeI .push 1 imm)
theorem pushFm2 : Statement .pushFm2 :=
  of_encodeN (by rfl) (by decide)
theorem pushFm3 : Statement .pushFm3 :=
  of_encodeN (by rfl) (by decide)
theorem pushFm4 : Statement .pushFm4 :=
  of_encodeN (by rfl) (by decide)
theorem pushFm5 : Statement .pushFm5 :=
  of_encodeN (by rfl) (by decide)
theorem pop : Statement .pop :=
  of_encodeN (by rfl) (by decide)
theorem popFm1 : Statement .popFm1 :=
  of_encodeN (by rfl) (by decide)
theorem popFm2 : Statement .popFm2 :=
  of_encodeN (by rfl) (by decide)
theorem popFm3 : Statement .popFm3 :=
  of_encodeN (by rfl) (by decide)
theorem popFm4 : Statement .popFm4 :=
  of_encodeN (by rfl) (by decide)
theorem addStack : Statement .addStack :=
  of_encodeN (by rfl) (by decide)
theorem addFm1 : Statement .addFm1 :=
  of_encodeN (by rfl) (by decide)
theorem addFm2 : Statement .addFm2 :=
  of_encodeN (by rfl) (by decide)
theorem addReg (rs1 rs2 rd : Reg) : Statement (.addReg rs1 rs2 rd) :=
  of_row rfl (by rfl) (by decide) (mbz_encodeR3 .add 3 rs1 rs2 rd)
theorem addFm4 : Statement .addFm4 :=
  of_encodeN (by rfl) (by decide)
theorem subStack : Statement .subStack :=
  of_encodeN (by rfl) (by decide)
theorem subFm1 : Statement .subFm1 :=
  of_encodeN (by rfl) (by decide)
theorem subFm2 : Statement .subFm2 :=
  of_encodeN (by rfl) (by decide)
theorem subReg (rs1 rs2 rd : Reg) : Statement (.subReg rs1 rs2 rd) :=
  of_row rfl (by rfl) (by decide) (mbz_encodeR3 .sub 3 rs1 rs2 rd)
theorem subFm4 : Statement .subFm4 :=
  of_encodeN (by rfl) (by decide)
theorem incStack : Statement .incStack :=
  of_encodeN (by rfl) (by decide)
theorem incReg (rs1 : Reg) : Statement (.incReg rs1) :=
  of_row rfl (by rfl) (by decide) (mbz_encodeR1 .inc 1 rs1)
theorem incFm2 : Statement .incFm2 :=
  of_encodeN (by rfl) (by decide)
theorem incFm3 : Statement .incFm3 :=
  of_encodeN (by rfl) (by decide)
theorem incFm4 : Statement .incFm4 :=
  of_encodeN (by rfl) (by decide)
theorem decStack : Statement .decStack :=
  of_encodeN (by rfl) (by decide)
theorem decReg (rs1 : Reg) : Statement (.decReg rs1) :=
  of_row rfl (by rfl) (by decide) (mbz_encodeR1 .dec 1 rs1)
theorem decFm2 : Statement .decFm2 :=
  of_encodeN (by rfl) (by decide)
theorem decFm3 : Statement .decFm3 :=
  of_encodeN (by rfl) (by decide)
theorem decFm4 : Statement .decFm4 :=
  of_encodeN (by rfl) (by decide)
theorem imulStack : Statement .imulStack :=
  of_encodeN (by rfl) (by decide)
theorem imulFm1 : Statement .imulFm1 :=
  of_encodeN (by rfl) (by decide)
theorem imulFm2 : Statement .imulFm2 :=
  of_encodeN (by rfl) (by decide)
theorem imulReg (rs1 rs2 rd : Reg) : Statement (.imulReg rs1 rs2 rd) :=
  of_row rfl (by rfl) (by decide) (mbz_encodeR3 .imul 3 rs1 rs2 rd)
theorem imulFm4 : Statement .imulFm4 :=
  of_encodeN (by rfl) (by decide)
theorem idivStack : Statement .idivStack :=
  of_encodeN (by rfl) (by decide)
theorem idivFm1 : Statement .idivFm1 :=
  of_encodeN (by rfl) (by decide)
theorem idivFm2 : Statement .idivFm2 :=
  of_encodeN (by rfl) (by decide)
theorem idivReg (rs1 rs2 rd : Reg) : Statement (.idivReg rs1 rs2 rd) :=
  of_row rfl (by rfl) (by decide) (mbz_encodeR3 .idiv 3 rs1 rs2 rd)
theorem idivFm4 : Statement .idivFm4 :=
  of_encodeN (by rfl) (by decide)
theorem andStack : Statement .andStack :=
  of_encodeN (by rfl) (by decide)
theorem andFm1 : Statement .andFm1 :=
  of_encodeN (by rfl) (by decide)
theorem andFm2 : Statement .andFm2 :=
  of_encodeN (by rfl) (by decide)
theorem andReg (rs1 rs2 rd : Reg) : Statement (.andReg rs1 rs2 rd) :=
  of_row rfl (by rfl) (by decide) (mbz_encodeR3 .and 3 rs1 rs2 rd)
theorem andFm4 : Statement .andFm4 :=
  of_encodeN (by rfl) (by decide)
theorem orStack : Statement .orStack :=
  of_encodeN (by rfl) (by decide)
theorem orFm1 : Statement .orFm1 :=
  of_encodeN (by rfl) (by decide)
theorem orFm2 : Statement .orFm2 :=
  of_encodeN (by rfl) (by decide)
theorem orReg (rs1 rs2 rd : Reg) : Statement (.orReg rs1 rs2 rd) :=
  of_row rfl (by rfl) (by decide) (mbz_encodeR3 .or 3 rs1 rs2 rd)
theorem orFm4 : Statement .orFm4 :=
  of_encodeN (by rfl) (by decide)
theorem xorStack : Statement .xorStack :=
  of_encodeN (by rfl) (by decide)
theorem xorFm1 : Statement .xorFm1 :=
  of_encodeN (by rfl) (by decide)
theorem xorFm2 : Statement .xorFm2 :=
  of_encodeN (by rfl) (by decide)
theorem xorReg (rs1 rs2 rd : Reg) : Statement (.xorReg rs1 rs2 rd) :=
  of_row rfl (by rfl) (by decide) (mbz_encodeR3 .xor 3 rs1 rs2 rd)
theorem xorFm4 : Statement .xorFm4 :=
  of_encodeN (by rfl) (by decide)
theorem shlStack : Statement .shlStack :=
  of_encodeN (by rfl) (by decide)
theorem shlFm1 : Statement .shlFm1 :=
  of_encodeN (by rfl) (by decide)
theorem shlFm2 : Statement .shlFm2 :=
  of_encodeN (by rfl) (by decide)
theorem shlReg (rs1 rs2 rd : Reg) : Statement (.shlReg rs1 rs2 rd) :=
  of_row rfl (by rfl) (by decide) (mbz_encodeR3 .shl 3 rs1 rs2 rd)
theorem shlFm4 : Statement .shlFm4 :=
  of_encodeN (by rfl) (by decide)
theorem shrStack : Statement .shrStack :=
  of_encodeN (by rfl) (by decide)
theorem shrFm1 : Statement .shrFm1 :=
  of_encodeN (by rfl) (by decide)
theorem shrFm2 : Statement .shrFm2 :=
  of_encodeN (by rfl) (by decide)
theorem shrReg (rs1 rs2 rd : Reg) : Statement (.shrReg rs1 rs2 rd) :=
  of_row rfl (by rfl) (by decide) (mbz_encodeR3 .shr 3 rs1 rs2 rd)
theorem shrFm4 : Statement .shrFm4 :=
  of_encodeN (by rfl) (by decide)
theorem cmpStack : Statement .cmpStack :=
  of_encodeN (by rfl) (by decide)
theorem cmpFm1 : Statement .cmpFm1 :=
  of_encodeN (by rfl) (by decide)
theorem cmpReg (rs1 rs2 : Reg) : Statement (.cmpReg rs1 rs2) :=
  of_row rfl (by rfl) (by decide) (mbz_encodeR2 .cmp 2 rs1 rs2)
theorem cmpFm3 : Statement .cmpFm3 :=
  of_encodeN (by rfl) (by decide)
theorem cmpFm4 : Statement .cmpFm4 :=
  of_encodeN (by rfl) (by decide)
theorem jeStack : Statement .jeStack :=
  of_encodeN (by rfl) (by decide)
theorem jeLit (target : Index) : Statement (.jeLit target) :=
  of_row rfl (by rfl) (by decide) (mbz_encodeI .je 1 target)
theorem jeFm2 : Statement .jeFm2 :=
  of_encodeN (by rfl) (by decide)
theorem jeFm3 : Statement .jeFm3 :=
  of_encodeN (by rfl) (by decide)
theorem jeFm4 : Statement .jeFm4 :=
  of_encodeN (by rfl) (by decide)
theorem jeFm5 : Statement .jeFm5 :=
  of_encodeN (by rfl) (by decide)
theorem jmaStack : Statement .jmaStack :=
  of_encodeN (by rfl) (by decide)
theorem jmaLit (target : Index) : Statement (.jmaLit target) :=
  of_row rfl (by rfl) (by decide) (mbz_encodeI .jma 1 target)
theorem jmaFm2 : Statement .jmaFm2 :=
  of_encodeN (by rfl) (by decide)
theorem jmaFm3 : Statement .jmaFm3 :=
  of_encodeN (by rfl) (by decide)
theorem jmaFm4 : Statement .jmaFm4 :=
  of_encodeN (by rfl) (by decide)
theorem jmaFm5 : Statement .jmaFm5 :=
  of_encodeN (by rfl) (by decide)
theorem jneStack : Statement .jneStack :=
  of_encodeN (by rfl) (by decide)
theorem jneLit (target : Index) : Statement (.jneLit target) :=
  of_row rfl (by rfl) (by decide) (mbz_encodeI .jne 1 target)
theorem jneFm2 : Statement .jneFm2 :=
  of_encodeN (by rfl) (by decide)
theorem jneFm3 : Statement .jneFm3 :=
  of_encodeN (by rfl) (by decide)
theorem jneFm4 : Statement .jneFm4 :=
  of_encodeN (by rfl) (by decide)
theorem jneFm5 : Statement .jneFm5 :=
  of_encodeN (by rfl) (by decide)
theorem skip : Statement .skip :=
  of_encodeN (by rfl) (by decide)
theorem skipFm1 : Statement .skipFm1 :=
  of_encodeN (by rfl) (by decide)
theorem skipFm2 : Statement .skipFm2 :=
  of_encodeN (by rfl) (by decide)
theorem skipFm3 : Statement .skipFm3 :=
  of_encodeN (by rfl) (by decide)
theorem skipFm4 : Statement .skipFm4 :=
  of_encodeN (by rfl) (by decide)

end Sys2Proof.Laws.ShapeOfWord
end

