-- ==== Sys2Proof/Tests/Slice0.lean ====
section
/-! SUPPORT. The model's own tests. Expected results come from spec/95_test_vectors.md, the encodings of spec/30_encoding.md
and the rules named; the witnesses at the end meet the hypotheses of the statements, at the ends of their ranges. -/

namespace Sys2Proof.Tests

open Sys2Proof.Machine Sys2Proof.Stated

/-! ## Well-formedness: each check refuses an ill-formed term (30_encoding.md R56, R59) -/

theorem test_wellFormed_refuses_je_zero : (Instr.jeLit 0).wellFormed = false := by decide
theorem test_wellFormed_refuses_jma_zero : (Instr.jmaLit 0).wellFormed = false := by decide
theorem test_wellFormed_refuses_jne_zero : (Instr.jneLit 0).wellFormed = false := by decide
theorem test_wellFormed_accepts : (Instr.jeLit 1).wellFormed = true ∧ (Instr.pushLit 0).wellFormed = true := by decide

/-! ## Decoding: every constructor from a word written out from R51 to R57, operand fields not 0 -/

theorem test_decode_push :
    decode 0x00000001#32 = .ok .pushReg ∧
    decode 0xFFFB0021#32 = .ok (.pushLit 0xFFFB) ∧
    decode 0x00000041#32 = .ok .pushFm2 ∧
    decode 0x00000061#32 = .ok .pushFm3 ∧
    decode 0x00000081#32 = .ok .pushFm4 ∧
    decode 0x000000A1#32 = .ok .pushFm5 := by
  decide

theorem test_decode_pop :
    decode 0x00000002#32 = .ok .pop ∧
    decode 0x00000022#32 = .ok .popFm1 ∧
    decode 0x00000042#32 = .ok .popFm2 ∧
    decode 0x00000062#32 = .ok .popFm3 ∧
    decode 0x00000082#32 = .ok .popFm4 := by
  decide

theorem test_decode_add :
    decode 0x00000003#32 = .ok .addStack ∧
    decode 0x00000023#32 = .ok .addFm1 ∧
    decode 0x00000043#32 = .ok .addFm2 ∧
    decode 0x0001E163#32 = .ok (.addReg .b .e .h) ∧
    decode 0x00000083#32 = .ok .addFm4 := by
  decide

theorem test_decode_sub :
    decode 0x00000004#32 = .ok .subStack ∧
    decode 0x00000024#32 = .ok .subFm1 ∧
    decode 0x00000044#32 = .ok .subFm2 ∧
    decode 0x0001E164#32 = .ok (.subReg .b .e .h) ∧
    decode 0x00000084#32 = .ok .subFm4 := by
  decide

theorem test_decode_inc :
    decode 0x00000005#32 = .ok .incStack ∧
    decode 0x00000625#32 = .ok (.incReg .g) ∧
    decode 0x00000045#32 = .ok .incFm2 ∧
    decode 0x00000065#32 = .ok .incFm3 ∧
    decode 0x00000085#32 = .ok .incFm4 := by
  decide

theorem test_decode_dec :
    decode 0x00000006#32 = .ok .decStack ∧
    decode 0x00000626#32 = .ok (.decReg .g) ∧
    decode 0x00000046#32 = .ok .decFm2 ∧
    decode 0x00000066#32 = .ok .decFm3 ∧
    decode 0x00000086#32 = .ok .decFm4 := by
  decide

theorem test_decode_imul :
    decode 0x00000007#32 = .ok .imulStack ∧
    decode 0x00000027#32 = .ok .imulFm1 ∧
    decode 0x00000047#32 = .ok .imulFm2 ∧
    decode 0x0001E167#32 = .ok (.imulReg .b .e .h) ∧
    decode 0x00000087#32 = .ok .imulFm4 := by
  decide

theorem test_decode_idiv :
    decode 0x00000008#32 = .ok .idivStack ∧
    decode 0x00000028#32 = .ok .idivFm1 ∧
    decode 0x00000048#32 = .ok .idivFm2 ∧
    decode 0x0001E168#32 = .ok (.idivReg .b .e .h) ∧
    decode 0x00000088#32 = .ok .idivFm4 := by
  decide

theorem test_decode_and :
    decode 0x00000009#32 = .ok .andStack ∧
    decode 0x00000029#32 = .ok .andFm1 ∧
    decode 0x00000049#32 = .ok .andFm2 ∧
    decode 0x0001E169#32 = .ok (.andReg .b .e .h) ∧
    decode 0x00000089#32 = .ok .andFm4 := by
  decide

theorem test_decode_or :
    decode 0x0000000A#32 = .ok .orStack ∧
    decode 0x0000002A#32 = .ok .orFm1 ∧
    decode 0x0000004A#32 = .ok .orFm2 ∧
    decode 0x0001E16A#32 = .ok (.orReg .b .e .h) ∧
    decode 0x0000008A#32 = .ok .orFm4 := by
  decide

theorem test_decode_xor :
    decode 0x0000000B#32 = .ok .xorStack ∧
    decode 0x0000002B#32 = .ok .xorFm1 ∧
    decode 0x0000004B#32 = .ok .xorFm2 ∧
    decode 0x0001E16B#32 = .ok (.xorReg .b .e .h) ∧
    decode 0x0000008B#32 = .ok .xorFm4 := by
  decide

theorem test_decode_shl :
    decode 0x0000000C#32 = .ok .shlStack ∧
    decode 0x0000002C#32 = .ok .shlFm1 ∧
    decode 0x0000004C#32 = .ok .shlFm2 ∧
    decode 0x0001E16C#32 = .ok (.shlReg .b .e .h) ∧
    decode 0x0000008C#32 = .ok .shlFm4 := by
  decide

theorem test_decode_shr :
    decode 0x0000000D#32 = .ok .shrStack ∧
    decode 0x0000002D#32 = .ok .shrFm1 ∧
    decode 0x0000004D#32 = .ok .shrFm2 ∧
    decode 0x0001E16D#32 = .ok (.shrReg .b .e .h) ∧
    decode 0x0000008D#32 = .ok .shrFm4 := by
  decide

theorem test_decode_cmp :
    decode 0x0000000E#32 = .ok .cmpStack ∧
    decode 0x0000002E#32 = .ok .cmpFm1 ∧
    decode 0x0000214E#32 = .ok (.cmpReg .b .e) ∧
    decode 0x0000006E#32 = .ok .cmpFm3 ∧
    decode 0x0000008E#32 = .ok .cmpFm4 := by
  decide

theorem test_decode_je :
    decode 0x0000000F#32 = .ok .jeStack ∧
    decode 0x0005002F#32 = .ok (.jeLit 0x0005) ∧
    decode 0x0000004F#32 = .ok .jeFm2 ∧
    decode 0x0000006F#32 = .ok .jeFm3 ∧
    decode 0x0000008F#32 = .ok .jeFm4 ∧
    decode 0x000000AF#32 = .ok .jeFm5 := by
  decide

theorem test_decode_jma :
    decode 0x00000010#32 = .ok .jmaStack ∧
    decode 0x00050030#32 = .ok (.jmaLit 0x0005) ∧
    decode 0x00000050#32 = .ok .jmaFm2 ∧
    decode 0x00000070#32 = .ok .jmaFm3 ∧
    decode 0x00000090#32 = .ok .jmaFm4 ∧
    decode 0x000000B0#32 = .ok .jmaFm5 := by
  decide

theorem test_decode_jne :
    decode 0x00000011#32 = .ok .jneStack ∧
    decode 0x00050031#32 = .ok (.jneLit 0x0005) ∧
    decode 0x00000051#32 = .ok .jneFm2 ∧
    decode 0x00000071#32 = .ok .jneFm3 ∧
    decode 0x00000091#32 = .ok .jneFm4 ∧
    decode 0x000000B1#32 = .ok .jneFm5 := by
  decide

theorem test_decode_skip :
    decode 0x00000012#32 = .ok .skip ∧
    decode 0x00000032#32 = .ok .skipFm1 ∧
    decode 0x00000052#32 = .ok .skipFm2 ∧
    decode 0x00000072#32 = .ok .skipFm3 ∧
    decode 0x00000092#32 = .ok .skipFm4 := by
  decide

/-- The illegal words of 30_encoding.md R69 and 95 L2.5, each refused for its own reason. -/
theorem test_decode_refuses :
    decode 0x00000000#32 = .error .reservedOpcode ∧ decode 0x00000013#32 = .error .reservedOpcode ∧
    decode 0x000000C3#32 = .error .reservedForm ∧ decode 0x000000A3#32 = .error .reservedForm ∧
    decode 0x00000103#32 = .error .strayBits ∧ decode 0x00030121#32 = .error .strayBits ∧
    decode 0x00028863#32 = .error .strayBits ∧ decode 0x00004825#32 = .error .strayBits ∧
    decode 0x0000002F#32 = .error .zeroTarget := by
  decide

/-- The serialised word of `add a b c`, least significant byte first (20_memory.md R40). -/
theorem test_decode_bytes :
    decodeBytes [0x63, 0x88, 0x00, 0x00] = .ok (.addReg .a .b .c) ∧ decodeBytes [0x63] = .error .wrongLength ∧
    decodeTableWord 32 0x00008863 = some (.addReg .a .b .c) := by
  decide

/-! ## One step: the vectors of 95 L2 -/

/-- A RUNNING core of the given parameters: registers from `x[0]` on, live cells from `S[0]` on, flags, `pc`, `PLEN`. Its
stack-pointer register has 16 bits. -/
def core (n d : Nat) (x S : List Int) (z p : Bool) (pc plen : Nat) : State :=
  { State.resetOf n d 16 with
    x := ⟨wrapN n (x.getD 0 0), wrapN n (x.getD 1 0), wrapN n (x.getD 2 0), wrapN n (x.getD 3 0),
      wrapN n (x.getD 4 0), wrapN n (x.getD 5 0), wrapN n (x.getD 6 0), wrapN n (x.getD 7 0)⟩
    stack := (S.map (wrapN n)).reverse
    Z := z
    P := p
    pc := BitVec.ofNat 16 pc
    PLEN := BitVec.ofNat 16 plen
    STATUS := .running }

/-- The core of the vectors' conventions (95): N = 16, SDEPTH = 8, PLEN = 16. -/
def core16 (x S : List Int) (pc : Nat) : State := core 16 8 x S false false pc 16

/-- What one step with the word at `pc` answers. -/
def run (s : State) (w : Nat) : Result := step (s.withFetchWord 32 w)

/-- The registers of an answer. -/
def regs : Result → List Int
  | .next t => [sval t.x.reg_a, sval t.x.reg_b, sval t.x.reg_c, sval t.x.reg_d, sval t.x.reg_e, sval t.x.reg_f,
      sval t.x.reg_g, sval t.x.reg_h]
  | .fault _ => []
  | .refused _ => []

/-- The live cells of an answer, bottom first, with `SP`, and `pc`. -/
def cells : Result → List Int × Int × Nat
  | .next t => (t.liveCells.map sval, t.SP, t.pc.toNat)
  | .fault _ => ([], -2, 0)
  | .refused _ => ([], -2, 0)

/-- The flags of an answer, and `pc`. -/
def flags : Result → Bool × Bool × Nat
  | .next t => (t.Z, t.P, t.pc.toNat)
  | .fault _ => (true, true, 0)
  | .refused _ => (true, true, 0)

/-- The word of `STATUS` of an answer, and `pc`. -/
def status : Result → Nat × Nat
  | .next t => (t.statusWord.toNat, t.pc.toNat)
  | .fault _ => (0, 0)
  | .refused _ => (0, 0)

theorem test_push_lit_min : cells (run (core16 [] [] 0) 0x80000021) = ([-32768], 0, 1) := by decide
theorem test_push_lit_sign_extends : cells (run (core 32 8 [] [] false false 0 16) 0xFFFF0021) = ([-1], 0, 1) := by decide
theorem test_push_reg_shifts : regs (run (core16 [5, 1, 2, 3, 4, 6, 7, 8] [] 0) 0x00000001) = [1, 2, 3, 4, 6, 7, 8, 0] := by decide
theorem test_push_reg_overflow : status (run (core 16 3 [] [1, 2, 3] false false 0 16) 0x00000001) = (3 + 4 * 6, 0) := by decide
theorem test_pop_shifts : regs (run (core16 [1, 2, 3, 4, 5, 6, 7, 8] [9] 0) 0x00000002) = [9, 1, 2, 3, 4, 5, 6, 7] := by decide
theorem test_pop_underflow : status (run (core16 [] [] 0) 0x00000002) = (3 + 4 * 5, 0) := by decide
theorem test_add_stack_wraps : cells (run (core16 [] [32767, 1] 0) 0x00000003) = ([-32768], 0, 1) := by decide
theorem test_add_stack_underflow : status (run (core16 [] [5] 0) 0x00000003) = (3 + 4 * 5, 0) := by decide
theorem test_add_reg : regs (run (core16 [2, 3, 9] [] 0) 0x00008863) = [2, 3, 5, 0, 0, 0, 0, 0] := by decide
theorem test_add_reg_same : regs (run (core16 [21] [] 0) 0x00000063) = [42, 0, 0, 0, 0, 0, 0, 0] := by decide
theorem test_sub_stack_order : cells (run (core16 [] [3, 5] 0) 0x00000004) = ([-2], 0, 1) := by decide
theorem test_sub_stack_wraps : cells (run (core16 [] [-32768, 1] 0) 0x00000004) = ([32767], 0, 1) := by decide
theorem test_sub_reg_same : regs (run (core16 [7, 0, 5] [] 0) 0x00008064) = [7, 0, 0, 0, 0, 0, 0, 0] := by decide
theorem test_imul_stack_low_half : cells (run (core16 [] [300, 300] 0) 0x00000007) = ([24464], 0, 1) := by decide
theorem test_imul_stack_signed : cells (run (core16 [] [-3, 7] 0) 0x00000007) = ([-21], 0, 1) := by decide
theorem test_imul_reg_dest_is_source : regs (run (core16 [5, 4, 1] [] 0) 0x00004167) = [5, 20, 1, 0, 0, 0, 0, 0] := by decide
theorem test_idiv_stack_floor : cells (run (core16 [] [-7, 2] 0) 0x00000008) = ([-4], 0, 1) := by decide
theorem test_idiv_stack_zero : status (run (core16 [] [4, 0] 0) 0x00000008) = (3 + 4 * 7, 0) := by decide
theorem test_idiv_reg_floor : regs (run (core16 [0, -7, 2] [] 0) 0x0000D168) = [0, -7, 2, -4, 0, 0, 0, 0] := by decide
theorem test_idiv_reg_zero : status (run (core16 [0, -7] [] 0) 0x0000D168) = (3 + 4 * 7, 0) := by decide
theorem test_and_stack : cells (run (core16 [] [-1, 3855] 0) 0x00000009) = ([3855], 0, 1) := by decide
theorem test_and_reg : regs (run (core16 [12, 10, 1] [] 0) 0x00008869) = [12, 10, 8, 0, 0, 0, 0, 0] := by decide
theorem test_or_stack : cells (run (core16 [] [12, 10] 0) 0x0000000A) = ([14], 0, 1) := by decide
theorem test_or_reg_overwrites_source : regs (run (core16 [12, 3] [] 0) 0x0000086A) = [15, 3, 0, 0, 0, 0, 0, 0] := by decide
theorem test_xor_stack : cells (run (core16 [] [-1, 5] 0) 0x0000000B) = ([-6], 0, 1) := by decide
theorem test_xor_reg_clears : regs (run (core16 [7, 1] [] 0) 0x0000006B) = [0, 1, 0, 0, 0, 0, 0, 0] := by decide
theorem test_shl_stack : cells (run (core16 [] [-3, 2] 0) 0x0000000C) = ([-12], 0, 1) := by decide
theorem test_shl_stack_long : cells (run (core16 [] [1, 16] 0) 0x0000000C) = ([0], 0, 1) := by decide
theorem test_shl_reg_negative : status (run (core16 [1, -3] [] 0) 0x0000886C) = (3 + 4 * 9, 0) := by decide
theorem test_shl_reg : regs (run (core16 [1, 15] [] 0) 0x0000886C) = [1, 15, -32768, 0, 0, 0, 0, 0] := by decide
theorem test_shr_stack_floor : cells (run (core16 [] [-7, 1] 0) 0x0000000D) = ([-4], 0, 1) := by decide
theorem test_shr_stack_long : cells (run (core16 [] [-1, 100] 0) 0x0000000D) = ([-1], 0, 1) := by decide
theorem test_shr_reg : regs (run (core16 [-8, 1] [] 0) 0x0000886D) = [-8, 1, -4, 0, 0, 0, 0, 0] := by decide
theorem test_inc_stack_wraps : cells (run (core16 [] [32767] 0) 0x00000005) = ([-32768], 0, 1) := by decide
theorem test_inc_reg : regs (run (core16 [0, 0, 9] [] 0) 0x00000225) = [0, 0, 10, 0, 0, 0, 0, 0] := by decide
theorem test_dec_stack_top_only : cells (run (core16 [] [1, 0] 0) 0x00000006) = ([1, -1], 1, 1) := by decide
theorem test_dec_reg : regs (run (core16 [] [] 0) 0x00000726) = [0, 0, 0, 0, 0, 0, 0, -1] := by decide
theorem test_cmp_stack_signed : flags (run (core16 [] [-32768, 32767] 0) 0x0000000E) = (false, false, 1) := by decide
theorem test_cmp_stack_greater : flags (run (core16 [] [7, 3] 0) 0x0000000E) = (false, true, 1) := by decide
theorem test_cmp_reg_same : flags (run (core 16 8 [4] [] false true 0 16) 0x0000004E) = (true, false, 1) := by decide
theorem test_je_lit_taken : cells (run (core 16 8 [] [] true false 0 10) 0x0005002F) = ([], -1, 4) := by decide
theorem test_je_lit_line_one : cells (run (core 16 8 [] [] true false 5 10) 0x0001002F) = ([], -1, 0) := by decide
theorem test_je_stack_back : cells (run (core 16 8 [] [-2] true false 5 10) 0x0000000F) = ([], -1, 4) := by decide
theorem test_je_stack_out_of_bounds : status (run (core 16 8 [] [-6] false false 5 10) 0x0000000F) = (3 + 4 * 8, 5) := by decide
theorem test_jma_lit_taken : cells (run (core 16 8 [] [] false false 2 10) 0x00070030) = ([], -1, 6) := by decide
theorem test_jma_lit_not_taken : cells (run (core 16 8 [] [] true false 2 10) 0x00070030) = ([], -1, 3) := by decide
theorem test_jma_stack_taken : cells (run (core 16 8 [] [3] false false 2 10) 0x00000010) = ([], -1, 6) := by decide
theorem test_jma_stack_not_taken_pops : cells (run (core 16 8 [] [3] true false 2 10) 0x00000010) = ([], -1, 3) := by decide
theorem test_jne_lit_not_taken : cells (run (core 16 8 [] [] true false 4 10) 0x00020031) = ([], -1, 5) := by decide
theorem test_jne_lit_taken : cells (run (core 16 8 [] [] false false 4 10) 0x00020031) = ([], -1, 1) := by decide
theorem test_jne_stack_to_end : cells (run (core 16 8 [] [4] false false 5 10) 0x00000011) = ([], -1, 10) := by decide
theorem test_jne_stack_bounds_not_taken : status (run (core 16 8 [] [5] true false 5 10) 0x00000011) = (3 + 4 * 8, 5) := by decide
theorem test_skip : cells (run (core16 [3] [1] 0) 0x00000012) = ([1], 0, 1) := by decide

/-- A bad shape faults whatever the stack holds (95 L2.7, 40 R72): every faulting shape of every opcode, on a full stack. -/
theorem test_shapes_incomplete :
    ([0x00000023, 0x00000043, 0x00000024, 0x00000044, 0x00000027, 0x00000047, 0x00000028, 0x00000048,
      0x00000029, 0x00000049, 0x0000002A, 0x0000004A, 0x0000002B, 0x0000004B, 0x0000002C, 0x0000004C,
      0x0000002D, 0x0000004D, 0x0000002E] : List Nat).all
      (fun w => decide (status (run (core 16 3 [] [1, 2, 3] false false 0 16) w) = (3 + 4 * 3, 0))) = true := by
  decide

theorem test_shapes_arity :
    ([0x00000041, 0x00000061, 0x00000081, 0x00000022, 0x00000042, 0x00000062, 0x00000082, 0x00000083,
      0x00000084, 0x00000045, 0x00000065, 0x00000085, 0x00000046, 0x00000066, 0x00000086, 0x00000087,
      0x00000088, 0x00000089, 0x0000008A, 0x0000008B, 0x0000008C, 0x0000008D, 0x0000006E, 0x0000008E,
      0x0000004F, 0x0000006F, 0x0000008F, 0x00000050, 0x00000070, 0x00000090, 0x00000051, 0x00000071,
      0x00000091, 0x00000032, 0x00000052, 0x00000072, 0x00000092] : List Nat).all
      (fun w => decide (status (run (core 16 3 [] [1, 2, 3] false false 0 16) w) = (3 + 4 * 4, 0))) = true := by
  decide

theorem test_shapes_badlit :
    ([0x000000A1, 0x000000AF, 0x000000B0, 0x000000B1] : List Nat).all
      (fun w => decide (status (run (core 16 3 [] [1, 2, 3] false false 0 16) w) = (3 + 4 * 2, 0))) = true := by
  decide

/-- An illegal word faults with cause 1 (95 L2.5). -/
theorem test_illegal_word : status (run (core16 [] [] 0) 0x000000C3) = (3 + 4 * 1, 0) := by decide

/-- With `pc >= PLEN` the step halts and executes nothing (95 L2.5). -/
theorem test_halts : status (step (core 16 8 [] [] false false 3 3)) = (2, 3) := by decide

/-- Nothing steps in IDLE: the reset state stays as it is (10_state.md R33). -/
theorem test_reset_idles : step (State.resetOf 16 8 16) = .next (State.resetOf 16 8 16) := rfl

/-- The first instruction after the reset of this instance, its parameters unknown (log 1). -/
theorem test_first_after_reset : flags (step (State.reset.withFetchWord 32 0x0005002F)) = (false, false, 1) := by decide

/-! ## The host interface and the assembler -/

/-- Host `Execute` of a taken `je 5` leaves `pc = 3` (95 V4). -/
theorem test_execute_je : flags (hostOp (.execute 0x0005002F) { State.resetOf 16 8 16 with Z := true }) = (true, false, 3) := by
  decide

/-- Host `Execute` of `pop` on an empty stack ends FAULTED, cause 5 (95 L2.6). -/
theorem test_execute_pop_faults : status (hostOp (.execute 0x00000002) (State.resetOf 16 8 16)) = (3 + 4 * 5, 0) := by decide

/-- Boot leaves the core RUNNING at 0 with `PLEN` words (70 R129). -/
theorem test_boot : status (boot [0x00030021, 0x00000012] (State.resetOf 16 8 16)) = (1, 0) := by decide

/-- Lines of 30_encoding.md R69 become the words the table gives. -/
theorem test_assemble :
    assembleLine "push -1".toList = .ok 0xFFFF0021 ∧ assembleLine "sub h reg_g f".toList = .ok 0x00017764 ∧
    assembleLine "je abc".toList = .ok 0x000000AF ∧ assembleLine ";comment".toList = .ok 0x00000012 ∧
    assembleLine "add a b c d".toList = .ok 0x00000083 ∧ assembleLine " ; x".toList = .error .unknownCommand ∧
    assembleLine "push 32768".toList = .error .literalOutOfRange ∧ assembleLine "je 0".toList = .error .targetOutOfRange ∧
    assembleLine "inc i".toList = .error .badRegister := by
  decide

/-! ## Witnesses: the hypotheses of the statements can be met

Each theorem shows a concrete state and operands that meet the hypotheses of one clause of the statement it is named after. -/

/-- The core of `core` in IDLE. -/
def idleCore (S : List Int) : State := { core 16 8 [] S false false 0 10 with STATUS := .idle }

/-- A RUNNING core with the word `w` placed at `pc`. -/
def loaded (s : State) (w : Nat) : State := s.withFetchWord 32 w

theorem witness_DecodeOfEncodeIsIdentity :
    (Instr.jeLit 1).wellFormed = true ∧ (Instr.jneLit 65535).wellFormed = true ∧ (Instr.pushLit 0).wellFormed = true := by
  decide

theorem witness_EncodeOfDecodeIsIdentity :
    decode 0xFFFF002F#32 = .ok (.jeLit 65535) ∧ decode 0x0001FFE3#32 = .error .reservedForm ∧
      decode 0x0001FF6D#32 = .ok (.shrReg .h .h .h) := by
  decide

theorem witness_SerialisedWordDecodesAsTheWord :
    ([] : List Byte).length ≠ 4 ∧ ([0, 0, 0] : List Byte).length ≠ 4 ∧ ([0, 0, 0, 0, 0] : List Byte).length ≠ 4 := by
  decide

theorem witness_StepRunsTheDecodedInstruction :
    let s := loaded (core 16 8 [] [] false false 9 10) 0x00000012
    s.STATUS = .running ∧ s.pc.toNat < s.PLEN.toNat ∧ decode (s.IMEM.readWord s.pc) = .ok .skip := by
  decide

theorem witness_StepAtTheEndHaltsForGood :
    (core 16 8 [] [] false false 3 3).STATUS = .running ∧
      (core 16 8 [] [] false false 3 3).PLEN.toNat ≤ (core 16 8 [] [] false false 3 3).pc.toNat ∧
      (core 16 8 [] [] false false 0 0).PLEN = 0 ∧ (core16 [] [] 0).halt.STATUS = .halted := by
  decide

theorem witness_StepAtTheEndHaltsForGood_faulted :
    ({ core16 [] [] 0 with STATUS := .faulted .negativeShift } : State).STATUS = .faulted .negativeShift := rfl

theorem witness_ShapeFaultsByDecodeClass :
    let s := fun w => loaded (core16 [] [] 0) w
    (s 0x00000103).STATUS = .running ∧ (s 0x00000103).pc.toNat < (s 0x00000103).PLEN.toNat ∧
      decodeClass ((s 0x00000103).IMEM.readWord 0) = .illegal ∧ decodeClass ((s 0x0000002E).IMEM.readWord 0) = .incomplete ∧
      decodeClass ((s 0x00000092).IMEM.readWord 0) = .arity ∧ decodeClass ((s 0x000000B1).IMEM.readWord 0) = .badlit := by
  decide

theorem witness_EveryStepHaltsFaultsOrExecutes : (core16 [] [] 0).STATUS = .running := rfl

/-- A fault raised by an instruction, by a step and by a host Execute, with STATUS as the premises ask. -/
theorem witness_FaultsArePrecise :
    (core16 [] [] 0).STATUS.isFaulted = false ∧
      exec .pop (core16 [] [] 0) = .next { core16 [] [] 0 with STATUS := .faulted .stackUnderflow } ∧
      status (run (core16 [] [] 0) 0x00000002) = (23, 0) ∧ (idleCore []).STATUS = .idle ∧
      hostOp (.execute 0x00000002) (idleCore []) = .next { idleCore [] with STATUS := .faulted .stackUnderflow } :=
  ⟨rfl, rfl, by decide, rfl, rfl⟩

theorem witness_StatusWordHasTheSpecFields :
    (idleCore []).STATUS = .idle ∧ (core16 [] [] 0).STATUS = .running ∧ (core16 [] [] 0).halt.STATUS = .halted ∧
      ({ core16 [] [] 0 with STATUS := .faulted .arityError } : State).STATUS = .faulted .arityError := by
  decide

/-- Every cause but the first is raised by some instruction in some state. -/
theorem witness_FaultsComeFromTheInstructionsListed :
    status (exec .jneFm5 (core16 [] [] 0)) = (3 + 4 * 2, 0) ∧ status (exec .cmpFm1 (core16 [] [] 0)) = (3 + 4 * 3, 0) ∧
      status (exec .skipFm4 (core16 [] [] 0)) = (3 + 4 * 4, 0) ∧ status (exec .cmpStack (core16 [] [1] 0)) = (3 + 4 * 5, 0) ∧
      status (exec (.pushLit 1) (core 16 2 [] [1, 2] false false 0 9)) = (3 + 4 * 6, 0) ∧
      status (exec .idivStack (core16 [] [1, 0] 0)) = (3 + 4 * 7, 0) ∧
      status (exec .jeStack (core16 [] [16] 0)) = (3 + 4 * 8, 0) ∧
      status (exec (.shrReg .a .b .c) (core16 [1, -1] [] 0)) = (3 + 4 * 9, 0) := by
  decide

theorem witness_PushFollowsItsRule :
    (core 16 2 [] [1, 2] false false 0 9).depth = (core 16 2 [] [1, 2] false false 0 9).SDEPTH ∧
      (core 16 2 [] [1] false false 0 9).depth ≠ (core 16 2 [] [1] false false 0 9).SDEPTH := by
  decide

theorem witness_PopFollowsItsRule : (core16 [] [] 0).stack = [] ∧ (core16 [] [7] 0).stack = [7#16] :=
  ⟨rfl, rfl⟩

/-- The clauses of the binary operators: no and one live cell, exactly two, and for `idiv`, `shl` and `shr` a second operand
that faults and one that does not. -/
theorem witness_binary_operators :
    (core16 [] [] 0).depth < 2 ∧ (core16 [] [5] 0).depth < 2 ∧ (core16 [] [3, 0] 0).stack = 0#16 :: 3#16 :: [] ∧
      (sval (0#16) = 0 ∧ sval (1#16) ≠ 0) ∧ (sval (0xFFFF#16) < 0 ∧ ¬ sval (0#16) < 0) ∧
      (core16 [0, -1] [] 0).x.get .a = 0#16 ∧ (core16 [0, -1] [] 0).x.get .b = 0xFFFF#16 :=
  ⟨by decide, by decide, rfl, by decide, by decide, rfl, rfl⟩

theorem witness_IncFollowsItsRule : (core16 [] [] 0).stack = [] ∧ (core16 [] [-1] 0).stack = [0xFFFF#16] :=
  ⟨rfl, rfl⟩

theorem witness_CmpFollowsItsRule :
    (core16 [] [5] 0).depth < 2 ∧ (core16 [] [1, 2] 0).stack = 2#16 :: 1#16 :: [] :=
  ⟨by decide, rfl⟩

/-- The clauses of the jumps: no offset, an offset to -1, to 0, to `PLEN - 1` and to `PLEN`, at `pc` = 5 with `PLEN` = 10. -/
theorem witness_jumps :
    (core 16 8 [] [] false false 5 10).stack = [] ∧ (core 16 8 [] [-6] false false 5 10).stack = [0xFFFA#16] ∧
      uval (5 : Index) + sval (0xFFFA#16) < 0 ∧ 0 ≤ uval (5 : Index) + sval (0xFFFB#16) ∧
      uval (5 : Index) + sval (4#16) < uval (10 : Index) ∧ uval (5 : Index) + sval (5#16) ≥ uval (10 : Index) ∧
      (1 : Index) ≠ 0 :=
  ⟨rfl, rfl, by decide, by decide, by decide, by decide, by decide⟩

theorem witness_SkipFollowsItsRule : aboutToRun (loaded (core16 [] [] 0) 0x00000012) .skip := by
  unfold aboutToRun
  decide

theorem witness_CompareOutcomeTable :
    sval (5#16) = sval (5#16) ∧ sval (7#16) > sval (3#16) ∧ sval (0x8000#16) < sval (0x7FFF#16) ∧
      (core16 [] [7, 3] 0).stack = 3#16 :: 7#16 :: [] :=
  ⟨rfl, by decide, by decide, rfl⟩

/-- An exact sum at the top of the range, and one beyond it. -/
theorem witness_ArithmeticWrapsModuloTwoToTheN :
    (core16 [] [32766, 1] 0).stack = 1#16 :: 32766#16 :: [] ∧ sval (32766#16) + sval (1#16) < 2 ^ 15 ∧
      ¬ sval (32767#16) + sval (1#16) < 2 ^ 15 :=
  ⟨rfl, by decide, by decide⟩

/-- The quotient that does not fit, and one that does. -/
theorem witness_IdivRoundsTowardMinusInfinity :
    (core16 [] [-32768, -1] 0).stack = 0xFFFF#16 :: 0x8000#16 :: [] ∧ sval (0x8000#16) = -(2 ^ 15) ∧
      sval (0xFFFF#16) = -1 ∧ sval (0xFFFF#16) ≠ 0 ∧ ¬ (sval (0x8001#16) = -(2 ^ 15) ∧ sval (0xFFFF#16) = -1) :=
  ⟨rfl, by decide, by decide, by decide, by decide⟩

theorem witness_LongShiftsLeaveOnlyTheSign :
    (core16 [] [-1, 16] 0).stack = 16#16 :: 0xFFFF#16 :: [] ∧ (16 : Int) ≤ sval (16#16) ∧ sval (0#16) = 0 :=
  ⟨rfl, by decide, by decide⟩

theorem witness_PushThenPopRestoresTheState :
    (core 16 2 [] [1] false false 0 9).depth < (core 16 2 [] [1] false false 0 9).SDEPTH ∧
      (core 16 2 [] [1, 2] false false 0 9).depth = (core 16 2 [] [1, 2] false false 0 9).SDEPTH := by
  decide

/-- A taken and an untaken literal jump about to run, the taken one beyond a program of one word. -/
theorem witness_LiteralJumpLandsOnItsLine :
    let s := { loaded (core 16 8 [] [] true false 0 1) 0x0014002F with Z := true }
    aboutToRun s (.jeLit 20) ∧ takenLiteral (.jeLit 20) 20 s ∧ s.PLEN.toNat ≤ (20 : Index).toNat - 1 ∧
      aboutToRun { s with Z := false } (.jeLit 20) ∧ untakenLiteral (.jeLit 20) 20 { s with Z := false } := by
  unfold aboutToRun takenLiteral untakenLiteral
  decide

/-- A taken and an untaken stack-form jump about to run, the offset reaching the last index of the program. -/
theorem witness_StackJumpLandsPastItsOffset :
    let s := loaded (core 16 8 [] [4] false false 5 10) 0x00000011
    aboutToRun s .jneStack ∧ Instr.jneStack ∈ jumpStackForms ∧ s.stack = [4#16] ∧ 0 ≤ uval s.pc + sval (4#16) ∧
      uval s.pc + sval (4#16) < uval s.PLEN ∧ takenStack .jneStack s ∧ ¬ takenStack .jneStack { s with Z := true } := by
  refine ⟨?_, by decide, rfl, by decide, by decide, ?_, ?_⟩
  · unfold aboutToRun; decide
  · unfold takenStack; decide
  · unfold takenStack; decide

theorem witness_OnlyCompareWritesTheFlags :
    exec .skip (core16 [] [] 0) = .next (core16 [] [] 0) ∧ Instr.skip ≠ .cmpStack ∧ Instr.skip ≠ .cmpReg .a .b :=
  ⟨rfl, by decide, by decide⟩

theorem witness_RegistersChangeOnlyWhereListed :
    writesRegisters (.pushLit 3) = false ∧ writesRegisters .addStack = false ∧ writesRegisters .jeStack = false := by
  decide

theorem witness_StackPointerMovesAsListed :
    (core16 [] [1, 2] 0).STATUS.isFaulted = false ∧ cells (exec .addStack (core16 [] [1, 2] 0)) = ([3], 0, 0) ∧
      spMove .addStack = -1 := by
  decide

theorem witness_HandlersMovePcOnlyInTakenJumps :
    flags (exec (.jmaLit 7) (core16 [] [] 0)) = (false, false, 5) ∧ (5 : Nat) ≠ (core16 [] [] 0).pc.toNat := by
  decide

/-- A state that meets the invariant at the ends of its ranges: the least parameters, a full stack, the last byte of memory. -/
theorem witness_StepKeepsTheInvariant :
    let s := { core 16 2 [] [1, 2] false false 0 1 with IMEM := [(0, 0x12), (1, 0), (2, 0), (3, 0), (262143, 0)] }
    s.Inv ∧ step s = .next { s with pc := 1 } :=
  ⟨⟨by decide, by decide, by decide, by decide, by decide⟩, rfl⟩

theorem witness_HostOperationsKeepTheInvariant :
    (idleCore []).Inv ∧ hostOp .start (idleCore []) = .next { idleCore [] with STATUS := .running } :=
  ⟨⟨by decide, by decide, by decide, by decide, by decide⟩, rfl⟩

theorem witness_ReachableStatesMeetTheInvariant :
    16 ≤ 16 ∧ 2 ≤ 2 ∧ 2 ≤ 2 ^ (2 - 1) ∧ Reachable 16 2 2 { State.resetOf 16 2 2 with STATUS := .halted } :=
  ⟨le_rfl, le_rfl, le_rfl, .step (.host .start .powerOn rfl) rfl⟩

/-- A step that stays inside the program, and a literal jump to a line beyond it. -/
theorem witness_PcStaysWithinTheProgram :
    let s := loaded (core 16 8 [] [] true false 0 10) 0x0014002F
    s.STATUS = .running ∧ s.pc.toNat < s.PLEN.toNat ∧ flags (step s) = (true, false, 19) ∧
      decode (s.IMEM.readWord s.pc) = .ok (.jeLit 20) := by
  decide

theorem witness_HostOperationsActOnlyInIdle :
    (idleCore []).STATUS = .idle ∧ decode 0#32 = .error .reservedOpcode ∧ decode 18#32 = .ok .skip ∧
      (core16 [] [] 0).STATUS ≠ .idle ∧ HostOp.start ≠ .reset := by
  decide

theorem witness_BootLoadsTheWordsAndStarts :
    ([0x12, 0x12] : List InstrWord).length ≤ 65535 ∧ 1 < ([0x12, 0x12] : List InstrWord).length ∧
      ([0x12, 0x12] : List InstrWord).length ≤ (2 : Index).toNat := by
  decide

/-- `Execute` in IDLE of a word that decodes, of one that does not, with `Z` set and clear, and outside IDLE. -/
theorem witness_HostExecuteAddsNoIncrement :
    (idleCore []).STATUS = .idle ∧ decode 0x00000002#32 = .ok .pop ∧ decode 0#32 = .error .reservedOpcode ∧
      hostOp (.execute 0x0005002F) { idleCore [] with Z := true } = .next { idleCore [] with Z := true, pc := 3 } ∧
      hostOp (.execute 0x0005002F) (idleCore []) = .next (idleCore []) ∧ (core16 [] [] 0).STATUS ≠ .idle :=
  ⟨rfl, by decide, by decide, rfl, rfl, by decide⟩

theorem witness_ResetStateMeetsTheInvariant : 16 ≤ 16 ∧ 2 ≤ 2 ∧ 2 ≤ 2 ^ (2 - 1) := by decide

theorem witness_RegisterFileShiftsByOne : (0 : BitVec 3) ≠ 7 ∧ (6 : BitVec 3) ≠ 7 ∧ (1 : BitVec 3) ≠ 0 := by decide

/-- Both live cells of a full stack, and `SP` = 1 in the narrowest register that holds it. -/
theorem witness_HostReadsExactlyTheLiveCells :
    0 < (core 16 2 [] [1, 2] false false 0 9).depth ∧ 1 < (core 16 2 [] [1, 2] false false 0 9).depth ∧
      (core 16 2 [] [1, 2] false false 0 9).depth ≤ 2 ∧
      (core 16 2 [] [1, 2] false false 0 9).stack = [2#16, 1#16] ∧
      { core 16 2 [] [1, 2] false false 0 9 with SPW := 2 }.Inv ∧
      readSP { core 16 2 [] [1, 2] false false 0 9 with SPW := 2 } = 1 :=
  ⟨by decide, by decide, by decide, rfl, ⟨by decide, by decide, by decide, by decide, by decide⟩, by decide⟩

theorem witness_AssembledLinesAreLegalWords : assembleLine "jne 65535".toList = .ok 0xFFFF0031 := by decide

theorem witness_PlacedWordIsTheNextFetched : (core16 [] [] 0).pc ≠ 0xFFFF := by decide

end Sys2Proof.Tests
end

/-! The invariant of the CORE (spec/00_scope.md R5; 10_state.md R16, R25): the reset state meets it, every handler, step
and host operation keeps it, so every reachable state meets it; and the host reads that rest on it. -/

namespace Sys2Proof.Machine

/-! ## What a handler may answer

One fact about `exec` carries the invariant through steps and through host `Execute`: a handler answers a next state, touches
neither the parameters nor `PLEN` nor `IMEM`, moves STATUS to FAULTED only, and grows the stack only where there is room. -/

/-- The answer `r` of a handler on `s` is a next state in which parameters, `PLEN` and `IMEM` are those of `s`, STATUS is kept
or FAULTED, and the stack fits its capacity if that of `s` does (10_state.md R16, R24; 40_sequencer.md R73). -/
def HandlerEffect (s : State) (r : Result) : Prop :=
  ∃ x stack z p pc status,
    r = .next { s with x := x, stack := stack, Z := z, P := p, pc := pc, STATUS := status } ∧
    (status = s.STATUS ∨ ∃ c, status = .faulted c) ∧ (s.depth ≤ s.SDEPTH → stack.length ≤ s.SDEPTH)

/-- A commit that leaves STATUS alone is a handler's effect as soon as its stack fits. -/
theorem HandlerEffect.commit {s : State} {x : RegFile s.N} {stack : List (BitVec s.N)} {z p : Bool} {pc : Index}
    (fits : s.depth ≤ s.SDEPTH → stack.length ≤ s.SDEPTH) :
    HandlerEffect s (.next { s with x := x, stack := stack, Z := z, P := p, pc := pc }) :=
  ⟨x, stack, z, p, pc, s.STATUS, rfl, .inl rfl, fits⟩

theorem handlerEffect_raise (c : FaultCause) (s : State) : HandlerEffect s (raise c s) :=
  ⟨s.x, s.stack, s.Z, s.P, s.pc, .faulted c, rfl, .inr ⟨c, rfl⟩, id⟩

theorem handlerEffect_same (s : State) : HandlerEffect s (.next s) := .commit id

/-! ## The shared forms (42_arithmetic.md R84, R96, R97; 44_jumps.md R104, R105) -/

theorem handlerEffect_binaryReg (f : AluOp) (rs1 rs2 rd : Reg) (s : State) :
    HandlerEffect s (binaryReg f rs1 rs2 rd s) := by
  unfold binaryReg
  split
  · exact handlerEffect_raise _ s
  · exact .commit id

theorem handlerEffect_unaryReg (f : AluOp) (rs1 : Reg) (s : State) : HandlerEffect s (unaryReg f rs1 s) := by
  unfold unaryReg
  split
  · exact handlerEffect_raise _ s
  · exact .commit id

theorem handlerEffect_binaryStack (f : AluOp) (s : State) : HandlerEffect s (binaryStack f s) := by
  unfold binaryStack
  rcases stackPair_cases s with ⟨-, underflow⟩ | ⟨b, a, rest, cells, pair⟩
  · simpa only [underflow] using handlerEffect_raise _ s
  · simp only [pair]
    split
    · exact handlerEffect_raise _ s
    · refine .commit fun bounded => ?_
      simp only [State.depth, cells, List.drop_succ_cons, List.drop_zero, List.length_cons] at bounded ⊢
      omega

theorem handlerEffect_unaryStack (f : AluOp) (s : State) : HandlerEffect s (unaryStack f s) := by
  unfold unaryStack
  rcases stackTop_cases s with ⟨-, underflow⟩ | ⟨a, rest, cells, top⟩
  · simpa only [underflow] using handlerEffect_raise _ s
  · simp only [top]
    split
    · exact handlerEffect_raise _ s
    · refine .commit fun bounded => ?_
      simpa [State.depth, cells] using bounded

theorem handlerEffect_jumpLiteral (c : Bool) (target : Index) (s : State) :
    HandlerEffect s (jumpLiteral c target s) := by
  rw [jumpLiteral_eq]
  exact .commit id

/-- Removing the top cell leaves a stack that fits. -/
theorem State.tail_fits (s : State) (bounded : s.depth ≤ s.SDEPTH) : s.stack.tail.length ≤ s.SDEPTH := by
  rw [List.length_tail]
  exact (Nat.sub_le _ 1).trans bounded

theorem handlerEffect_jumpStack (c : Bool) (s : State) : HandlerEffect s (jumpStack c s) := by
  unfold jumpStack
  split
  · exact handlerEffect_raise _ s
  · split
    · exact handlerEffect_raise _ s
    · cases c
      · exact .commit s.tail_fits
      · exact .commit s.tail_fits

/-! ## `push`, `pop` and `cmp` (41_stack_transfer.md R81, R82; 43_compare.md R99) -/

/-- A stack that is not full has room for one more cell. -/
theorem State.cons_fits {s : State} (room : ¬ s.stackFull = true) (v : BitVec s.N) (bounded : s.depth ≤ s.SDEPTH) :
    (v :: s.stack).length ≤ s.SDEPTH := by
  simp only [State.stackFull, beq_iff_eq] at room
  simp only [State.depth] at room bounded
  simp only [List.length_cons]
  omega

theorem handlerEffect_execPushReg (s : State) : HandlerEffect s (execPushReg s) := by
  unfold execPushReg
  split
  · exact handlerEffect_raise _ s
  · exact .commit (State.cons_fits ‹_› _)

theorem handlerEffect_execPushLit (imm : Index) (s : State) : HandlerEffect s (execPushLit imm s) := by
  unfold execPushLit
  split
  · exact handlerEffect_raise _ s
  · exact .commit (State.cons_fits ‹_› _)

theorem handlerEffect_execPop (s : State) : HandlerEffect s (execPop s) := by
  unfold execPop
  split
  · exact handlerEffect_raise _ s
  · exact .commit s.tail_fits

theorem handlerEffect_execCmpStack (s : State) : HandlerEffect s (execCmpStack s) := by
  unfold execCmpStack
  split
  · exact handlerEffect_raise _ s
  · exact .commit id

/-! ## Every instruction -/

/-- The handler of every instruction, by the shared form it calls; the 60 shapes that are left over raise their fault
(40_sequencer.md R72). -/
theorem handlerEffect_exec (i : Instr) (s : State) : HandlerEffect s (exec i s) := by
  cases i with
  | addStack => exact handlerEffect_binaryStack .add s
  | addReg rs1 rs2 rd => exact handlerEffect_binaryReg .add rs1 rs2 rd s
  | subStack => exact handlerEffect_binaryStack .sub s
  | subReg rs1 rs2 rd => exact handlerEffect_binaryReg .sub rs1 rs2 rd s
  | imulStack => exact handlerEffect_binaryStack .mul s
  | imulReg rs1 rs2 rd => exact handlerEffect_binaryReg .mul rs1 rs2 rd s
  | idivStack => exact handlerEffect_binaryStack .div s
  | idivReg rs1 rs2 rd => exact handlerEffect_binaryReg .div rs1 rs2 rd s
  | andStack => exact handlerEffect_binaryStack .and s
  | andReg rs1 rs2 rd => exact handlerEffect_binaryReg .and rs1 rs2 rd s
  | orStack => exact handlerEffect_binaryStack .or s
  | orReg rs1 rs2 rd => exact handlerEffect_binaryReg .or rs1 rs2 rd s
  | xorStack => exact handlerEffect_binaryStack .xor s
  | xorReg rs1 rs2 rd => exact handlerEffect_binaryReg .xor rs1 rs2 rd s
  | shlStack => exact handlerEffect_binaryStack .shl s
  | shlReg rs1 rs2 rd => exact handlerEffect_binaryReg .shl rs1 rs2 rd s
  | shrStack => exact handlerEffect_binaryStack .shr s
  | shrReg rs1 rs2 rd => exact handlerEffect_binaryReg .shr rs1 rs2 rd s
  | incStack => exact handlerEffect_unaryStack .inc s
  | incReg rs1 => exact handlerEffect_unaryReg .inc rs1 s
  | decStack => exact handlerEffect_unaryStack .dec s
  | decReg rs1 => exact handlerEffect_unaryReg .dec rs1 s
  | jeStack => exact handlerEffect_jumpStack _ s
  | jeLit target => exact handlerEffect_jumpLiteral _ target s
  | jmaStack => exact handlerEffect_jumpStack _ s
  | jmaLit target => exact handlerEffect_jumpLiteral _ target s
  | jneStack => exact handlerEffect_jumpStack _ s
  | jneLit target => exact handlerEffect_jumpLiteral _ target s
  | pushReg => exact handlerEffect_execPushReg s
  | pushLit imm => exact handlerEffect_execPushLit imm s
  | pop => exact handlerEffect_execPop s
  | cmpStack => exact handlerEffect_execCmpStack s
  | cmpReg => exact .commit id
  | skip => exact handlerEffect_same s
  | _ => exact handlerEffect_raise _ s

/-! ## The step and host `Execute` -/

/-- The post-step increment moves `pc` alone (40_sequencer.md R74). -/
theorem HandlerEffect.afterHandler {s : State} {r : Result} (h : HandlerEffect s r) :
    HandlerEffect s (afterHandler r) := by
  obtain ⟨x, stack, z, p, pc, status, rfl, hstatus, fits⟩ := h
  rw [afterHandler_next, postStep]
  split
  · exact ⟨x, stack, z, p, pc, status, rfl, hstatus, fits⟩
  · exact ⟨x, stack, z, p, pc + 1, status, rfl, hstatus, fits⟩

/-- Everything a step can do (40_sequencer.md R71, R77): it halts, or its effect is that of a handler. -/
theorem step_cases (s : State) : step s = .next s.halt ∨ HandlerEffect s (step s) := by
  unfold step
  split
  · split
    · exact .inl rfl
    · right
      split
      · exact handlerEffect_raise _ s
      · exact (handlerEffect_exec _ s).afterHandler
  · exact .inr (handlerEffect_same s)
  · exact .inr (handlerEffect_same s)
  · exact .inr (handlerEffect_same s)

theorem handlerEffect_executeWord (w : InstrWord) (s : State) : HandlerEffect s (executeWord w s) := by
  unfold executeWord
  split
  · exact handlerEffect_raise _ s
  · exact handlerEffect_exec _ s

/-! ## The invariant -/

/-- A reset state whose parameters are in range (00_scope.md R5). -/
theorem State.inv_resetOf {n d w : Nat} (width : 16 ≤ n) (capacity : 2 ≤ d) (pointer : d ≤ 2 ^ (w - 1)) :
    (State.resetOf n d w).Inv :=
  ⟨width, capacity, pointer, Nat.zero_le d, Memory.wf_reset⟩

/-- The three parameters, which a CORE keeps for as long as it exists (00_scope.md R5), are the same in both states. -/
def SameParameters (s t : State) : Prop := t.N = s.N ∧ t.SDEPTH = s.SDEPTH ∧ t.SPW = s.SPW

/-- A handler's effect keeps the invariant, the parameters, `PLEN` and `IMEM`. -/
theorem HandlerEffect.keeps_inv {s t : State} (inv : s.Inv) (h : HandlerEffect s (.next t)) :
    t.Inv ∧ SameParameters s t ∧ t.PLEN = s.PLEN ∧ t.IMEM = s.IMEM := by
  obtain ⟨x, stack, z, p, pc, status, e, -, fits⟩ := h
  cases next_inj e
  exact ⟨⟨inv.width, inv.capacity, inv.pointer, fits inv.bounded, inv.memory⟩, ⟨rfl, rfl, rfl⟩, rfl, rfl⟩

/-- A step keeps the invariant, the parameters, `PLEN` and `IMEM`. -/
theorem step_keeps_inv {s t : State} (inv : s.Inv) (h : step s = .next t) :
    t.Inv ∧ SameParameters s t ∧ t.PLEN = s.PLEN ∧ t.IMEM = s.IMEM := by
  rcases step_cases s with halted | effect
  · cases next_inj (halted.symm.trans h)
    exact ⟨⟨inv.width, inv.capacity, inv.pointer, inv.bounded, inv.memory⟩, ⟨rfl, rfl, rfl⟩, rfl, rfl⟩
  · exact HandlerEffect.keeps_inv inv (h ▸ effect)

/-- An operation that is accepted in IDLE only and answers a next state was issued in IDLE (10_state.md R34). -/
theorem accepted_of_next {s t : State} {r : Result}
    (h : (if s.STATUS = .idle then r else .refused .hostOpOutsideIdle) = .next t) : r = .next t := by
  split at h
  · exact h
  · cases h

/-- A host operation keeps the invariant and the parameters (10_state.md R34). -/
theorem hostOp_keeps_inv {op : HostOp} {s t : State} (inv : s.Inv) (h : hostOp op s = .next t) :
    t.Inv ∧ SameParameters s t := by
  cases op with
  | reset =>
    cases next_inj h
    exact ⟨⟨inv.width, inv.capacity, inv.pointer, Nat.zero_le _, inv.memory⟩, rfl, rfl, rfl⟩
  | writeIMEM i w =>
    cases next_inj (accepted_of_next h)
    exact ⟨⟨inv.width, inv.capacity, inv.pointer, inv.bounded, Memory.wf_writeWord inv.memory i w⟩, rfl, rfl, rfl⟩
  | writePLEN len =>
    cases next_inj (accepted_of_next h)
    exact ⟨⟨inv.width, inv.capacity, inv.pointer, inv.bounded, inv.memory⟩, rfl, rfl, rfl⟩
  | start =>
    cases next_inj (accepted_of_next h)
    exact ⟨⟨inv.width, inv.capacity, inv.pointer, inv.bounded, inv.memory⟩, rfl, rfl, rfl⟩
  | execute w =>
    have effect := handlerEffect_executeWord w s
    rw [accepted_of_next h] at effect
    obtain ⟨inv', same, -, -⟩ := effect.keeps_inv inv
    exact ⟨inv', same⟩

/-! ## Host reads of the stack (10_state.md R35) -/

theorem State.length_liveCells (s : State) : s.liveCells.length = s.depth := List.length_reverse

/-- A cell below the depth is live and is read. -/
theorem readCell_live {s : State} {i : Nat} (live : i < s.depth) : ∃ v, readCell s i = .ok v := by
  obtain ⟨v, cell⟩ : ∃ v, s.cell i = some v := ⟨_, List.getElem?_eq_getElem (s.length_liveCells ▸ live)⟩
  exact ⟨v, by simp only [readCell, cell]⟩

/-- A cell at or above the depth is dead and its read is refused. -/
theorem readCell_dead {s : State} {i : Nat} (dead : s.depth ≤ i) : readCell s i = .error .deadCellRead := by
  have cell : s.cell i = none := List.getElem?_eq_none (s.length_liveCells.trans_le dead)
  simp only [readCell, cell]

/-- The cell at index `SP` is the top cell (10_state.md R15). -/
theorem readCell_top {s : State} {v : BitVec s.N} {rest : List (BitVec s.N)} (cells : s.stack = v :: rest) :
    readCell s rest.length = .ok v := by
  have top : s.cell rest.length = some v := by simp [State.cell, State.liveCells, cells]
  simp only [readCell, top]

/-! ## The statements -/

/-- Settles O46: a step halts or has a handler's effect, and both keep the invariant. -/
theorem stepKeepsTheInvariant : Obligations.StepKeepsTheInvariant := by
  intro s t inv h
  obtain ⟨inv', ⟨hN, hSDEPTH, hSPW⟩, hPLEN, hIMEM⟩ := step_keeps_inv inv h
  exact ⟨inv', hN, hSDEPTH, hSPW, hPLEN, hIMEM⟩

/-- Settles O49, by induction on how the state was reached. -/
theorem reachableStatesMeetTheInvariant : Obligations.ReachableStatesMeetTheInvariant := by
  intro n d w s width capacity pointer reached
  induction reached with
  | powerOn => exact ⟨State.inv_resetOf width capacity pointer, rfl, rfl, rfl⟩
  | step _ h ih =>
    obtain ⟨inv, hN, hSDEPTH, hSPW⟩ := ih
    obtain ⟨inv', ⟨hN', hSDEPTH', hSPW'⟩, -, -⟩ := step_keeps_inv inv h
    exact ⟨inv', hN'.trans hN, hSDEPTH'.trans hSDEPTH, hSPW'.trans hSPW⟩
  | host op _ h ih =>
    obtain ⟨inv, hN, hSDEPTH, hSPW⟩ := ih
    obtain ⟨inv', hN', hSDEPTH', hSPW'⟩ := hostOp_keeps_inv inv h
    exact ⟨inv', hN'.trans hN, hSDEPTH'.trans hSDEPTH, hSPW'.trans hSPW⟩

/-- Settles O48: the constants of log 1 are in range, and every reset state in range meets the invariant. -/
theorem resetStateMeetsTheInvariant : Obligations.ResetStateMeetsTheInvariant :=
  ⟨State.inv_resetOf width_ge capacity_ge pointer_ge, fun _ _ _ => State.inv_resetOf⟩

/-- Settles O52: the values are fields of `State.resetOf`, the ranges are those of the constants of log 1. -/
theorem resetStateHasTheResetValues : Obligations.ResetStateHasTheResetValues :=
  ⟨RegFile.get_zero Config.N, State.SP_resetOf _ _ _, rfl, rfl, rfl, rfl, rfl, width_ge, capacity_ge, pointer_ge⟩

/-- Settles O58: the stack is the live cells top first, so index `SP` is its head; the pointer register holds `SP` because the
invariant bounds the depth by what `SPW` bits can hold. -/
theorem hostReadsExactlyTheLiveCells : Obligations.HostReadsExactlyTheLiveCells := by
  refine ⟨fun s i => readCell_live, fun s v rest cells => ⟨?_, readCell_top cells⟩,
    fun s i => readCell_dead, fun s inv => pointerRegister_value inv.capacity inv.pointer inv.bounded⟩
  simp [State.SP, State.depth, cells]

end Sys2Proof.Machine

/-! What the instructions leave unchanged and how far they move `SP` (spec/10_state.md R12, R16, R19), that none of them reads
`P`, and the state's own operations: the shifts of the register file (R13, R14), the STATUS word (R23), instruction memory
(R25) and the host operations (R34). -/

namespace Sys2Proof.Machine

open Sys2Proof.Stated

/-! ## The thirteen forms of a handler

Each of the 94 handlers is one of thirteen shared operations. `HandlerForm` says which, with what the lists of R12 and R16 say
of the instruction, so that a fact about every instruction is a fact about thirteen operations. -/

/-- The handler `h` of the instruction `i` is this shared operation; a branch condition is a function of `Z` alone (44_jumps.md
R102). -/
inductive HandlerForm : Instr → (State → Result) → Prop where
  | binaryReg {i : Instr} (f : AluOp) (rs1 rs2 rd : Reg) (writes : writesRegisters i = true) (move : spMove i = 0) :
      HandlerForm i (binaryReg f rs1 rs2 rd)
  | unaryReg {i : Instr} (f : AluOp) (rs1 : Reg) (writes : writesRegisters i = true) (move : spMove i = 0) :
      HandlerForm i (unaryReg f rs1)
  | binaryStack {i : Instr} (f : AluOp) (move : spMove i = -1) : HandlerForm i (binaryStack f)
  | unaryStack {i : Instr} (f : AluOp) (move : spMove i = 0) : HandlerForm i (unaryStack f)
  | jumpLiteral {i : Instr} (c : Bool → Bool) (target : Index) (move : spMove i = 0) :
      HandlerForm i (fun s => jumpLiteral (c s.Z) target s)
  | jumpStack {i : Instr} (c : Bool → Bool) (move : spMove i = -1) : HandlerForm i (fun s => jumpStack (c s.Z) s)
  | pushReg : HandlerForm .pushReg execPushReg
  | pushLit (imm : Index) : HandlerForm (.pushLit imm) (execPushLit imm)
  | pop : HandlerForm .pop execPop
  | cmpStack : HandlerForm .cmpStack execCmpStack
  | cmpReg (rs1 rs2 : Reg) : HandlerForm (.cmpReg rs1 rs2) (execCmpReg rs1 rs2)
  | skip : HandlerForm .skip execSkip
  | raises {i : Instr} (c : FaultCause) : HandlerForm i (raise c)

/-- Every instruction has one of the forms; the 60 shapes that are left over raise their fault (40_sequencer.md R72). -/
theorem handlerForm_exec (i : Instr) : HandlerForm i (exec i) := by
  cases i with
  | addStack => exact .binaryStack .add rfl
  | addReg rs1 rs2 rd => exact .binaryReg .add rs1 rs2 rd rfl rfl
  | subStack => exact .binaryStack .sub rfl
  | subReg rs1 rs2 rd => exact .binaryReg .sub rs1 rs2 rd rfl rfl
  | imulStack => exact .binaryStack .mul rfl
  | imulReg rs1 rs2 rd => exact .binaryReg .mul rs1 rs2 rd rfl rfl
  | idivStack => exact .binaryStack .div rfl
  | idivReg rs1 rs2 rd => exact .binaryReg .div rs1 rs2 rd rfl rfl
  | andStack => exact .binaryStack .and rfl
  | andReg rs1 rs2 rd => exact .binaryReg .and rs1 rs2 rd rfl rfl
  | orStack => exact .binaryStack .or rfl
  | orReg rs1 rs2 rd => exact .binaryReg .or rs1 rs2 rd rfl rfl
  | xorStack => exact .binaryStack .xor rfl
  | xorReg rs1 rs2 rd => exact .binaryReg .xor rs1 rs2 rd rfl rfl
  | shlStack => exact .binaryStack .shl rfl
  | shlReg rs1 rs2 rd => exact .binaryReg .shl rs1 rs2 rd rfl rfl
  | shrStack => exact .binaryStack .shr rfl
  | shrReg rs1 rs2 rd => exact .binaryReg .shr rs1 rs2 rd rfl rfl
  | incStack => exact .unaryStack .inc rfl
  | incReg rs1 => exact .unaryReg .inc rs1 rfl rfl
  | decStack => exact .unaryStack .dec rfl
  | decReg rs1 => exact .unaryReg .dec rs1 rfl rfl
  | jeStack => exact .jumpStack id rfl
  | jeLit target => exact .jumpLiteral id target rfl
  | jmaStack => exact .jumpStack not rfl
  | jmaLit target => exact .jumpLiteral not target rfl
  | jneStack => exact .jumpStack not rfl
  | jneLit target => exact .jumpLiteral not target rfl
  | pushReg => exact .pushReg
  | pushLit imm => exact .pushLit imm
  | pop => exact .pop
  | cmpStack => exact .cmpStack
  | cmpReg rs1 rs2 => exact .cmpReg rs1 rs2
  | skip => exact .skip
  | _ => exact .raises _

/-! ## Everything `push`, `pop` and `cmp` can do (41_stack_transfer.md R81, R82; 43_compare.md R99) -/

theorem execPushReg_cases {s t : State} (h : execPushReg s = .next t) :
    (s.stackFull = true ∧ t = { s with STATUS := .faulted .stackOverflow }) ∨
    (¬ s.stackFull = true ∧ t = { s with x := s.x.shiftLeft, stack := s.x.get .a :: s.stack }) := by
  unfold execPushReg at h
  split at h
  · exact .inl ⟨‹_›, (next_inj h).symm⟩
  · exact .inr ⟨‹_›, (next_inj h).symm⟩

theorem execPushLit_cases {imm : Index} {s t : State} (h : execPushLit imm s = .next t) :
    (s.stackFull = true ∧ t = { s with STATUS := .faulted .stackOverflow }) ∨
    (¬ s.stackFull = true ∧ t = { s with stack := s.literal imm :: s.stack }) := by
  unfold execPushLit at h
  split at h
  · exact .inl ⟨‹_›, (next_inj h).symm⟩
  · exact .inr ⟨‹_›, (next_inj h).symm⟩

theorem execPop_cases {s t : State} (h : execPop s = .next t) :
    (s.stack = [] ∧ t = { s with STATUS := .faulted .stackUnderflow }) ∨
    (∃ v rest, s.stack = v :: rest ∧ t = { s with x := s.x.shiftRight v, stack := rest }) := by
  unfold execPop at h
  rcases stackTop_cases s with ⟨low, e⟩ | ⟨v, rest, es, e⟩ <;> simp only [e] at h
  · exact .inl ⟨low, (next_inj h).symm⟩
  · refine .inr ⟨v, rest, es, (next_inj h).symm.trans ?_⟩
    simp [State.popCell, State.withRegs, es]

theorem execCmpStack_cases {s t : State} (h : execCmpStack s = .next t) :
    (s.depth < 2 ∧ t = { s with STATUS := .faulted .stackUnderflow }) ∨
    (∃ b a rest, s.stack = b :: a :: rest ∧ t = s.latchFlags a b) := by
  unfold execCmpStack at h
  rcases stackPair_cases s with ⟨low, e⟩ | ⟨b, a, rest, es, e⟩ <;> simp only [e] at h
  · exact .inl ⟨low, (next_inj h).symm⟩
  · exact .inr ⟨b, a, rest, es, (next_inj h).symm⟩

/-! ## What a handler that does not fault may change -/

/-- What a commit of the instruction `i` on `s` leaves unchanged, and where it leaves the stack pointer: the register file
outside the writers of R12, the flags outside `cmp` (R19), the depth by the table of R16. -/
structure CommitFrame (i : Instr) (s : State) (x : RegFile s.N) (stack : List (BitVec s.N)) (z p : Bool) : Prop where
  registers : writesRegisters i = false → x = s.x
  flags : i ≠ .cmpStack → (∀ rs1 rs2, i ≠ .cmpReg rs1 rs2) → z = s.Z ∧ p = s.P
  depth : (stack.length : Int) = s.depth + spMove i

/-- `t` is `s` after a commit of `i`: STATUS, instruction memory, `PLEN` and the parameters are kept, and the rest changes within
the instruction's frame. -/
def Commits (i : Instr) (s t : State) : Prop :=
  ∃ x stack z p pc, t = { s with x := x, stack := stack, Z := z, P := p, pc := pc } ∧ CommitFrame i s x stack z p

/-- A commit that writes neither registers nor flags. -/
theorem Commits.of_stack {i : Instr} {s : State} {stack : List (BitVec s.N)} {pc : Index}
    (depth : (stack.length : Int) = s.depth + spMove i) : Commits i s { s with stack := stack, pc := pc } :=
  ⟨s.x, stack, s.Z, s.P, pc, rfl, fun _ => rfl, fun _ _ => ⟨rfl, rfl⟩, depth⟩

/-- A commit of a listed writer of the register file that leaves the flags. -/
theorem Commits.of_writer {i : Instr} {s : State} {x : RegFile s.N} {stack : List (BitVec s.N)}
    (writes : writesRegisters i = true) (depth : (stack.length : Int) = s.depth + spMove i) :
    Commits i s { s with x := x, stack := stack } :=
  ⟨x, stack, s.Z, s.P, s.pc, rfl, fun none => absurd (writes.symm.trans none) Bool.noConfusion, fun _ _ => ⟨rfl, rfl⟩, depth⟩

/-- Everything a handler can do: it raises a fault, or it commits within its instruction's frame. -/
theorem HandlerForm.cases {i : Instr} {h : State → Result} {s t : State} (form : HandlerForm i h) (e : h s = .next t) :
    (∃ c, t = { s with STATUS := .faulted c }) ∨ Commits i s t := by
  cases form with
  | binaryReg f rs1 rs2 rd writes move =>
    rcases binaryReg_cases e with ⟨c, -, rfl⟩ | ⟨r, -, rfl⟩
    · exact .inl ⟨c, rfl⟩
    · exact .inr (.of_writer writes (by simp [State.depth, move]))
  | unaryReg f rs1 writes move =>
    rcases unaryReg_cases e with ⟨c, -, rfl⟩ | ⟨r, -, rfl⟩
    · exact .inl ⟨c, rfl⟩
    · exact .inr (.of_writer writes (by simp [State.depth, move]))
  | binaryStack f move =>
    rcases binaryStack_cases e with ⟨-, rfl⟩ | ⟨b, a, rest, c, -, -, rfl⟩ | ⟨b, a, rest, r, cells, -, rfl⟩
    · exact .inl ⟨_, rfl⟩
    · exact .inl ⟨c, rfl⟩
    · exact .inr (.of_stack (by simp [State.depth, cells, move]))
  | unaryStack f move =>
    rcases unaryStack_cases e with ⟨-, rfl⟩ | ⟨a, rest, c, -, -, rfl⟩ | ⟨a, rest, r, cells, -, rfl⟩
    · exact .inl ⟨_, rfl⟩
    · exact .inl ⟨c, rfl⟩
    · exact .inr (.of_stack (by simp [State.depth, cells, move]))
  | jumpLiteral c target move =>
    cases next_inj ((jumpLiteral_eq _ target s).symm.trans e)
    exact .inr (.of_stack (by simp [State.depth, move]))
  | jumpStack c move =>
    rcases jumpStack_cases e with ⟨-, rfl⟩ | ⟨d, rest, -, -, rfl⟩ | ⟨d, rest, cells, -, -, rfl⟩
    · exact .inl ⟨_, rfl⟩
    · exact .inl ⟨_, rfl⟩
    · exact .inr (.of_stack (by simp [State.depth, cells, move]))
  | pushReg =>
    rcases execPushReg_cases e with ⟨-, rfl⟩ | ⟨-, rfl⟩
    · exact .inl ⟨_, rfl⟩
    · exact .inr (.of_writer rfl rfl)
  | pushLit imm =>
    rcases execPushLit_cases e with ⟨-, rfl⟩ | ⟨-, rfl⟩
    · exact .inl ⟨_, rfl⟩
    · exact .inr (.of_stack rfl)
  | pop =>
    rcases execPop_cases e with ⟨-, rfl⟩ | ⟨v, rest, cells, rfl⟩
    · exact .inl ⟨_, rfl⟩
    · have move : spMove .pop = -1 := rfl
      exact .inr (.of_writer rfl (by simp [State.depth, cells, move]))
  | cmpStack =>
    rcases execCmpStack_cases e with ⟨-, rfl⟩ | ⟨b, a, rest, -, rfl⟩
    · exact .inl ⟨_, rfl⟩
    · exact .inr ⟨s.x, s.stack, _, _, s.pc, rfl, fun _ => rfl, fun other _ => absurd rfl other, (Int.add_zero _).symm⟩
  | cmpReg rs1 rs2 =>
    cases next_inj e
    exact .inr ⟨s.x, s.stack, _, _, s.pc, rfl, fun _ => rfl, fun _ other => absurd rfl (other rs1 rs2),
      (Int.add_zero _).symm⟩
  | skip =>
    cases next_inj e
    exact .inr (.of_stack (Int.add_zero _).symm)
  | raises c => exact .inl ⟨c, (next_inj e).symm⟩

/-- Everything an instruction can do (40_sequencer.md R73, 60_exceptions.md R113). -/
theorem exec_cases {i : Instr} {s t : State} (h : exec i s = .next t) :
    (∃ c, t = { s with STATUS := .faulted c }) ∨ Commits i s t :=
  (handlerForm_exec i).cases h

/-- Every instruction answers a next state. -/
theorem exec_total (i : Instr) (s : State) : ∃ t, exec i s = .next t := by
  obtain ⟨x, stack, z, p, pc, status, e, -, -⟩ := handlerEffect_exec i s
  exact ⟨_, e⟩

/-! ## No handler reads `P` (10_state.md R19) -/

/-- Two answers are next states that differ at most in `P`. -/
def SameButP (r r' : Result) : Prop := ∃ t p, r = .next t ∧ r' = .next { t with P := p }

/-- An operation run from two states that differ in `P` alone gives answers that differ at most in `P`. -/
def IgnoresP (h : State → Result) : Prop := ∀ (s : State) (p : Bool), SameButP (h s) (h { s with P := p })

theorem ignoresP_raise (c : FaultCause) : IgnoresP (raise c) := fun _ p => ⟨_, p, rfl, rfl⟩

/-- The shape of every handler that reads operands: it raises what the read or the ALU answers, or goes on with the value. -/
def orRaise {α : Type} (s : State) (r : Except FaultCause α) (commit : α → Result) : Result :=
  match r with
  | .error c => raise c s
  | .ok v => commit v

theorem binaryReg_eq (f : AluOp) (rs1 rs2 rd : Reg) (s : State) : binaryReg f rs1 rs2 rd s =
    orRaise s (alu f (s.x.get rs1) (s.x.get rs2)) fun r => .next (s.withRegs (s.x.set rd r)) := by
  cases r : alu f (s.x.get rs1) (s.x.get rs2) <;> simp only [binaryReg, orRaise, r]

theorem unaryReg_eq (f : AluOp) (rs1 : Reg) (s : State) : unaryReg f rs1 s =
    orRaise s (alu f (s.x.get rs1) 0) fun r => .next (s.withRegs (s.x.set rs1 r)) := by
  cases r : alu f (s.x.get rs1) 0 <;> simp only [unaryReg, orRaise, r]

theorem binaryStack_eq (f : AluOp) (s : State) : binaryStack f s =
    orRaise s s.stackPair fun ab => orRaise s (alu f ab.1 ab.2) fun r => .next (s.combine r) := by
  cases r : s.stackPair with
  | error c => simp only [binaryStack, orRaise, r]
  | ok ab => cases q : alu f ab.1 ab.2 <;> simp only [binaryStack, orRaise, r, q]

theorem unaryStack_eq (f : AluOp) (s : State) : unaryStack f s =
    orRaise s s.stackTop fun a => orRaise s (alu f a 0) fun r => .next (s.writeTop r) := by
  cases r : s.stackTop with
  | error c => simp only [unaryStack, orRaise, r]
  | ok a => cases q : alu f a 0 <;> simp only [unaryStack, orRaise, r, q]

theorem jumpStack_eq (c : Bool) (s : State) : jumpStack c s =
    orRaise s s.stackTop fun d => if jumpOutOfBounds s d then raise .jumpOutOfBounds s
      else .next (if c then s.popCell.withPc (BitVec.ofInt 16 (jumpSum s d)) else s.popCell) := by
  cases r : s.stackTop <;> simp only [jumpStack, orRaise, r]

theorem execPop_eq (s : State) : execPop s =
    orRaise s s.stackTop fun v => .next (s.popCell.withRegs (s.x.shiftRight v)) := by
  cases r : s.stackTop <;> simp only [execPop, orRaise, r]

theorem execCmpStack_eq (s : State) : execCmpStack s =
    orRaise s s.stackPair fun ab => .next (s.latchFlags ab.1 ab.2) := by
  cases r : s.stackPair <;> simp only [execCmpStack, orRaise, r]

theorem stackTop_anyP (s : State) (p : Bool) : State.stackTop { s with P := p } = s.stackTop := by
  cases cells : s.stack <;> simp only [State.stackTop, cells]

theorem stackPair_anyP (s : State) (p : Bool) : State.stackPair { s with P := p } = s.stackPair := by
  rcases cells : s.stack with _ | ⟨b, _ | ⟨a, rest⟩⟩ <;> simp only [State.stackPair, cells]

/-- Reading the same operands, two states that differ in `P` alone raise alike or go on alike. -/
theorem SameButP.orRaise {α : Type} (s : State) (p : Bool) (r : Except FaultCause α) {k k' : α → Result}
    (same : ∀ v, SameButP (k v) (k' v)) : SameButP (orRaise s r k) (orRaise { s with P := p } r k') := by
  cases r with
  | error c => exact ignoresP_raise c s p
  | ok v => exact same v

/-- The same for a check that raises one cause. -/
theorem SameButP.check (s : State) (p : Bool) (c : FaultCause) (fails : Bool) {r r' : Result} (same : SameButP r r') :
    SameButP (if fails then raise c s else r) (if fails then raise c { s with P := p } else r') := by
  cases fails with
  | true => exact ignoresP_raise c s p
  | false => exact same

theorem ignoresP_binaryReg (f : AluOp) (rs1 rs2 rd : Reg) : IgnoresP (binaryReg f rs1 rs2 rd) := by
  intro s p
  rw [binaryReg_eq, binaryReg_eq]
  exact .orRaise s p _ fun _ => ⟨_, p, rfl, rfl⟩

theorem ignoresP_unaryReg (f : AluOp) (rs1 : Reg) : IgnoresP (unaryReg f rs1) := by
  intro s p
  rw [unaryReg_eq, unaryReg_eq]
  exact .orRaise s p _ fun _ => ⟨_, p, rfl, rfl⟩

theorem ignoresP_binaryStack (f : AluOp) : IgnoresP (binaryStack f) := by
  intro s p
  rw [binaryStack_eq, binaryStack_eq, stackPair_anyP s p]
  exact .orRaise s p s.stackPair fun ab => .orRaise s p (alu f ab.1 ab.2) fun _ => ⟨_, p, rfl, rfl⟩

theorem ignoresP_unaryStack (f : AluOp) : IgnoresP (unaryStack f) := by
  intro s p
  rw [unaryStack_eq, unaryStack_eq, stackTop_anyP s p]
  exact .orRaise s p s.stackTop fun a => .orRaise s p (alu f a 0) fun _ => ⟨_, p, rfl, rfl⟩

theorem ignoresP_jumpLiteral (c : Bool → Bool) (target : Index) :
    IgnoresP (fun s => jumpLiteral (c s.Z) target s) := by
  intro s p
  simp only [jumpLiteral_eq]
  exact ⟨_, p, rfl, rfl⟩

/-- The bounds check and the condition of a stack-form jump look at `pc`, `PLEN`, the offset and `Z` (44_jumps.md R103, R105). -/
theorem ignoresP_jumpStack (c : Bool → Bool) : IgnoresP (fun s => jumpStack (c s.Z) s) := by
  intro s p
  simp only [jumpStack_eq, stackTop_anyP s p]
  refine .orRaise s p s.stackTop fun d => .check s p .jumpOutOfBounds (jumpOutOfBounds s d) ?_
  cases c s.Z with
  | true => exact ⟨_, p, rfl, rfl⟩
  | false => exact ⟨_, p, rfl, rfl⟩

theorem ignoresP_execPushReg : IgnoresP execPushReg := fun s p =>
  .check s p .stackOverflow s.stackFull ⟨_, p, rfl, rfl⟩

theorem ignoresP_execPushLit (imm : Index) : IgnoresP (execPushLit imm) := fun s p =>
  .check s p .stackOverflow s.stackFull ⟨_, p, rfl, rfl⟩

theorem ignoresP_execPop : IgnoresP execPop := by
  intro s p
  rw [execPop_eq, execPop_eq, stackTop_anyP s p]
  exact .orRaise s p _ fun _ => ⟨_, p, rfl, rfl⟩

/-- `cmp` overwrites `P`, so its answers without a fault are even equal. -/
theorem ignoresP_execCmpStack : IgnoresP execCmpStack := by
  intro s p
  rw [execCmpStack_eq, execCmpStack_eq, stackPair_anyP s p]
  exact .orRaise s p s.stackPair fun ab => ⟨s.latchFlags ab.1 ab.2, _, rfl, rfl⟩

theorem HandlerForm.ignoresP {i : Instr} {h : State → Result} (form : HandlerForm i h) : IgnoresP h := by
  cases form with
  | binaryReg f rs1 rs2 rd => exact ignoresP_binaryReg f rs1 rs2 rd
  | unaryReg f rs1 => exact ignoresP_unaryReg f rs1
  | binaryStack f => exact ignoresP_binaryStack f
  | unaryStack f => exact ignoresP_unaryStack f
  | jumpLiteral c target => exact ignoresP_jumpLiteral c target
  | jumpStack c => exact ignoresP_jumpStack c
  | pushReg => exact ignoresP_execPushReg
  | pushLit imm => exact ignoresP_execPushLit imm
  | pop => exact ignoresP_execPop
  | cmpStack => exact ignoresP_execCmpStack
  | cmpReg rs1 rs2 => exact fun s p => ⟨_, _, rfl, rfl⟩
  | skip => exact fun s p => ⟨_, p, rfl, rfl⟩
  | raises c => exact ignoresP_raise c

/-- The post-step increment looks at STATUS only (40_sequencer.md R74). -/
theorem SameButP.afterHandler {r r' : Result} (same : SameButP r r') : SameButP (afterHandler r) (afterHandler r') := by
  obtain ⟨t, p, rfl, rfl⟩ := same
  cases faulted : t.STATUS.isFaulted with
  | true =>
    exact ⟨t, p, congrArg _ (postStep_faulted faulted), congrArg _ (postStep_faulted (s := { t with P := p }) faulted)⟩
  | false =>
    exact ⟨_, p, congrArg _ (postStep_advance faulted), congrArg _ (postStep_advance (s := { t with P := p }) faulted)⟩

/-! The four things a step can do (40_sequencer.md R71, R72, R77). -/

theorem step_stopped {s : State} (stopped : s.STATUS ≠ .running) : step s = .next s := by
  unfold step
  split
  · exact absurd ‹_› stopped
  all_goals rfl

theorem step_halts {s : State} (running : s.STATUS = .running) (atEnd : s.atEnd = true) : step s = .next s.halt := by
  simp only [step, running, atEnd, if_true]

theorem step_illegal {s : State} {e : Reject} (running : s.STATUS = .running) (atEnd : s.atEnd = false)
    (word : decode s.fetch = .error e) : step s = raise .illegalInstruction s := by
  simp only [step, running, atEnd, word, Bool.false_eq_true, if_false]

theorem step_executes {s : State} {i : Instr} (running : s.STATUS = .running) (atEnd : s.atEnd = false)
    (word : decode s.fetch = .ok i) : step s = afterHandler (exec i s) := by
  simp only [step, running, atEnd, word, Bool.false_eq_true, if_false]

/-- The halt test, the fetch and STATUS do not involve `P`, so both states take the same of the four. -/
theorem ignoresP_step : IgnoresP step := by
  intro s p
  by_cases running : s.STATUS = .running
  · cases atEnd : s.atEnd with
    | true =>
      rw [step_halts running atEnd, step_halts (s := { s with P := p }) running atEnd]
      exact ⟨_, p, rfl, rfl⟩
    | false =>
      cases word : decode s.fetch with
      | error e =>
        rw [step_illegal running atEnd word, step_illegal (s := { s with P := p }) running atEnd word]
        exact ignoresP_raise _ s p
      | ok i =>
        rw [step_executes running atEnd word, step_executes (s := { s with P := p }) running atEnd word]
        exact ((handlerForm_exec i).ignoresP s p).afterHandler
  · rw [step_stopped running, step_stopped (s := { s with P := p }) running]
    exact ⟨s, p, rfl, rfl⟩

/-- The shape in which the statement compares two next states. -/
theorem SameButP.next_states {r r' : Result} (same : SameButP r r') :
    ∃ t u, r = .next t ∧ r' = .next u ∧ { u with P := t.P } = t := by
  obtain ⟨t, p, rfl, rfl⟩ := same
  exact ⟨t, _, rfl, rfl, rfl⟩

/-! ## Instruction memory (10_state.md R25, 20_memory.md R40) -/

/-- A word is the concatenation of its bytes. -/
theorem wordOfBytes_byteOfWord (w : InstrWord) :
    wordOfBytes (byteOfWord w 0) (byteOfWord w 1) (byteOfWord w 2) (byteOfWord w 3) = w := by
  apply BitVec.eq_of_toNat_eq
  have := w.isLt
  simp only [wordOfBytes, byteOfWord, toNat_concat, toNat_slice]
  omega

/-- A word write stores the word's four bytes at its index. -/
theorem Memory.readByte_writeWord_same (m : Memory) (i : Index) (w : InstrWord) {k : Nat} (hk : k < 4) :
    (m.writeWord i w).readByte (4 * i.toNat + k) = byteOfWord w k := by
  simp only [Memory.writeWord, Memory.readByte_write]
  interval_cases k <;> simp

/-- A word write leaves the bytes of every other index. -/
theorem Memory.readByte_writeWord_other (m : Memory) {i j : Index} (w : InstrWord) (ne : j ≠ i) {k : Nat} (hk : k < 4) :
    (m.writeWord i w).readByte (4 * j.toNat + k) = m.readByte (4 * j.toNat + k) := by
  have apart : i.toNat ≠ j.toNat := fun h => ne (BitVec.eq_of_toNat_eq h.symm)
  simp only [Memory.writeWord, Memory.readByte_write]
  rw [if_neg (by omega), if_neg (by omega), if_neg (by omega), if_neg (by omega)]

/-- A word read looks at the four bytes of its index only. -/
theorem Memory.readWord_eq (m : Memory) (i : Index) {byte : Nat → Byte}
    (bytes : ∀ k < 4, m.readByte (4 * i.toNat + k) = byte k) :
    m.readWord i = wordOfBytes (byte 0) (byte 1) (byte 2) (byte 3) := by
  have first : m.readByte (4 * i.toNat) = byte 0 := bytes 0 (by omega)
  rw [Memory.readWord, first, bytes 1 (by omega), bytes 2 (by omega), bytes 3 (by omega)]

/-- A word read after a word write (20_memory.md R48). -/
theorem Memory.readWord_writeWord (m : Memory) (i j : Index) (w : InstrWord) :
    (m.writeWord i w).readWord j = if j = i then w else m.readWord j := by
  split
  case isTrue same =>
    subst same
    rw [Memory.readWord_eq _ j fun k => m.readByte_writeWord_same j w, wordOfBytes_byteOfWord]
  case isFalse ne =>
    rw [Memory.readWord_eq _ j fun k => m.readByte_writeWord_other w ne]
    rfl

/-! ## The STATUS word (10_state.md R23) -/

/-- The STATUS word as arithmetic: the cause above the two bits of the state. -/
theorem State.toNat_statusWord (s : State) :
    s.statusWord.toNat = s.STATUS.causeField.toNat * 4 + s.STATUS.stateField.toNat := by
  have word : s.statusWord.toNat = ((0#10 ++ s.STATUS.causeField) ++ s.STATUS.stateField).toNat := rfl
  rw [word, toNat_concat, toNat_concat]
  simp

theorem State.statusWord_state (s : State) : s.statusWord.extractLsb' 0 2 = s.STATUS.stateField := by
  apply BitVec.eq_of_toNat_eq
  have := s.STATUS.stateField.isLt
  rw [toNat_slice, s.toNat_statusWord]
  omega

theorem State.statusWord_cause (s : State) : s.statusWord.extractLsb' 2 4 = s.STATUS.causeField := by
  apply BitVec.eq_of_toNat_eq
  have := s.STATUS.stateField.isLt
  have := s.STATUS.causeField.isLt
  rw [toNat_slice, s.toNat_statusWord]
  omega

theorem State.statusWord_reserved (s : State) : s.statusWord.extractLsb' 6 10 = 0 := by
  apply BitVec.eq_of_toNat_eq
  have := s.STATUS.stateField.isLt
  have := s.STATUS.causeField.isLt
  have zero : (0 : BitVec 10).toNat = 0 := rfl
  rw [toNat_slice, s.toNat_statusWord, zero]
  omega

/-- The two fields of the STATUS word in a state that is known. -/
theorem State.statusWord_fields {s : State} {status : Status} (h : s.STATUS = status) :
    s.statusWord.extractLsb' 0 2 = status.stateField ∧ s.statusWord.extractLsb' 2 4 = status.causeField :=
  h ▸ ⟨s.statusWord_state, s.statusWord_cause⟩

/-! ## The host operations, in IDLE and outside it (10_state.md R34, 92 D30) -/

theorem hostOp_writeIMEM {s : State} (idle : s.STATUS = .idle) (i : Index) (w : InstrWord) :
    hostOp (.writeIMEM i w) s = .next { s with IMEM := s.IMEM.writeWord i w } := if_pos idle

theorem hostOp_writePLEN {s : State} (idle : s.STATUS = .idle) (len : Index) :
    hostOp (.writePLEN len) s = .next { s with PLEN := len } := if_pos idle

theorem hostOp_start {s : State} (idle : s.STATUS = .idle) : hostOp .start s = .next { s with STATUS := .running } :=
  if_pos idle

theorem hostOp_execute {s : State} (idle : s.STATUS = .idle) (w : InstrWord) :
    hostOp (.execute w) s = executeWord w s := if_pos idle

theorem executeWord_illegal {w : InstrWord} {e : Reject} (h : decode w = .error e) (s : State) :
    executeWord w s = raise .illegalInstruction s := by
  simp only [executeWord, h]

theorem executeWord_legal {w : InstrWord} {i : Instr} (h : decode w = .ok i) (s : State) : executeWord w s = exec i s := by
  simp only [executeWord, h]

theorem hostOp_refused {s : State} {op : HostOp} (busy : s.STATUS ≠ .idle) (other : op ≠ .reset) :
    hostOp op s = .refused .hostOpOutsideIdle := by
  cases op with
  | reset => exact absurd rfl other
  | writeIMEM | writePLEN | start | execute => exact if_neg busy

/-! ## Register indices (10_state.md R11) -/

/-- Every 3-bit index is the index of a register. -/
theorem exists_register_of_index (i : BitVec 3) : ∃ r : Reg, r.toField = i := ⟨Reg.ofField i, Reg.toField_ofField i⟩

/-! ## The statements -/

/-- Settles O40: no handler reads `P`, and neither does what the sequencer does around it. -/
theorem positiveFlagIsNeverRead : Obligations.PositiveFlagIsNeverRead :=
  ⟨fun i s p => ((handlerForm_exec i).ignoresP s p).next_states, fun s p => (ignoresP_step s p).next_states⟩

/-- Settles O41: a fault keeps the flags, and so does the frame of every commit but those of `cmp`. -/
theorem onlyCompareWritesTheFlags : Obligations.OnlyCompareWritesTheFlags := by
  intro i s t h notStack notReg
  rcases exec_cases h with ⟨c, rfl⟩ | ⟨x, stack, z, p, pc, rfl, frame⟩
  · exact ⟨rfl, rfl⟩
  · exact frame.flags notStack notReg

/-- Settles O42: a fault keeps the register file, and so does the frame of every commit of an instruction that is not listed. -/
theorem registersChangeOnlyWhereListed : Obligations.RegistersChangeOnlyWhereListed := by
  intro i s unlisted
  obtain ⟨t, h⟩ := exec_total i s
  rcases exec_cases h with ⟨c, rfl⟩ | ⟨x, stack, z, p, pc, rfl, frame⟩
  · exact ⟨s.stack, s.Z, s.P, s.pc, .faulted c, h⟩
  · cases frame.registers unlisted
    exact ⟨stack, z, p, pc, s.STATUS, h⟩

/-- Settles O43: a fault keeps the stack; a commit leaves STATUS, which was not FAULTED, and moves the depth by the table. -/
theorem stackPointerMovesAsListed : Obligations.StackPointerMovesAsListed := by
  intro i s t sound h
  rcases exec_cases h with ⟨c, rfl⟩ | ⟨x, stack, z, p, pc, rfl, frame⟩
  · exact (Int.add_zero _).symm
  · have depth := frame.depth
    simp only [sound, State.SP, State.depth, Bool.false_eq_true, if_false] at depth ⊢
    omega

/-- Settles O45: it is the part of a handler's effect that says nothing of the capacity. -/
theorem instructionsKeepProgramAndParameters : Obligations.InstructionsKeepProgramAndParameters := by
  intro i s
  obtain ⟨x, stack, z, p, pc, status, e, kept, -⟩ := handlerEffect_exec i s
  exact ⟨x, stack, z, p, pc, status, e, kept⟩

/-- Settles O47, by the kind of operation (`hostOp_keeps_inv`). -/
theorem hostOperationsKeepTheInvariant : Obligations.HostOperationsKeepTheInvariant :=
  fun _ _ _ inv h => hostOp_keeps_inv inv h

/-- Settles O55, byte by byte: the bytes of an index are the four it reads, and those of another index lie apart. -/
theorem instructionMemoryReadsBackWrites : Obligations.InstructionMemoryReadsBackWrites :=
  Memory.readWord_writeWord

/-- Settles O12: the fields of the word are those of `Status`, whose values are read off state by state. -/
theorem statusWordHasTheSpecFields : Obligations.StatusWordHasTheSpecFields := by
  refine ⟨State.statusWord_reserved, fun s => State.statusWord_fields, fun s => State.statusWord_fields,
    fun s => State.statusWord_fields, fun s c h => ?_⟩
  obtain ⟨state, cause⟩ := State.statusWord_fields h
  exact ⟨state, cause.trans (by cases c <;> rfl)⟩

/-- Settles O53, operation by operation in IDLE; outside IDLE each is refused. -/
theorem hostOperationsActOnlyInIdle : Obligations.HostOperationsActOnlyInIdle := by
  refine ⟨fun s idle => ⟨fun i w => ?_, hostOp_writePLEN idle, hostOp_start idle, fun w e illegal => ?_,
    fun w i legal => ?_⟩, fun s op busy other => hostOp_refused busy other⟩
  · exact ⟨_, hostOp_writeIMEM idle i w, fun j => Memory.readWord_writeWord s.IMEM i j w⟩
  · exact (hostOp_execute idle w).trans (executeWord_illegal illegal s)
  · exact (hostOp_execute idle w).trans (executeWord_legal legal s)

/-- Settles O57, register by register, every index being the field of one. -/
theorem registerFileShiftsByOne : Obligations.RegisterFileShiftsByOne := by
  intro n f v
  refine ⟨fun i notLast => ?_, rfl, fun i notFirst => ?_, rfl⟩
  · obtain ⟨r, rfl⟩ := exists_register_of_index i
    cases r with
    | h => exact absurd rfl notLast
    | _ => rfl
  · obtain ⟨r, rfl⟩ := exists_register_of_index i
    cases r with
    | a => exact absurd rfl notFirst
    | _ => rfl

end Sys2Proof.Machine

/-! Serialised instructions (20_memory.md R40; 30_encoding.md R50) and the word placed for the next fetch (40_sequencer.md
R71). -/

namespace Sys2Proof.Machine

/-! ## Serialised instructions -/

/-- Serialising a word loses nothing the decoder reads. -/
theorem decodeBytes_bytesOfWord (w : InstrWord) : decodeBytes (bytesOfWord w) = decode w :=
  congrArg decode (wordOfBytes_byteOfWord w)

theorem decodeBytes_wrongLength {bytes : List Byte} (wrong : bytes.length ≠ 4) :
    decodeBytes bytes = .error .wrongLength := by
  match bytes, wrong with
  | [], _ | [_], _ | [_, _], _ | [_, _, _], _ => rfl
  | [_, _, _, _], wrong => exact absurd rfl wrong
  | _ :: _ :: _ :: _ :: _ :: _, _ => rfl

/-! ## The placed word (40_sequencer.md R71; 10_state.md R22; log 8) -/

/-- Beyond every index but 65535 lies the `PLEN` there is, or else the next index. -/
theorem lt_plen_or_succ {i : Index} (plen : Index) (notLast : i ≠ 0xFFFF) :
    i.toNat < (if i.toNat < plen.toNat then plen else i + 1).toNat := by
  split
  · assumption
  · bv_omega

/-- Placing a word writes it at the index it leaves in `pc`, which is the old one unless that is 65535, and leaves `PLEN`
beyond it. -/
theorem State.placeWord_cases (s : State) (w : InstrWord) : ∃ pc plen,
    s.placeWord w = { s with pc := pc, PLEN := plen, STATUS := .running, IMEM := s.IMEM.writeWord pc w } ∧
    (s.pc ≠ 0xFFFF → pc = s.pc) ∧ pc.toNat < plen.toNat := by
  refine ⟨_, _, rfl, fun notLast => if_neg notLast, lt_plen_or_succ s.PLEN ?_⟩
  split
  · decide
  · assumption

/-! ## The statements -/

/-- Settles O6: the four bytes are those of `bytesOfWord`, and the decoder takes lists of four alone. -/
theorem serialisedWordDecodesAsTheWord : Obligations.SerialisedWordDecodesAsTheWord :=
  ⟨decodeBytes_bytesOfWord, fun _ => decodeBytes_wrongLength⟩

/-- Settles O60: the word is written at the index `pc` is left at, where instruction memory reads it back. -/
theorem placedWordIsTheNextFetched : Obligations.PlacedWordIsTheNextFetched := by
  intro s nbits w
  obtain ⟨pc, plen, placed, kept, reaches⟩ := s.placeWord_cases (tableWord nbits w)
  have reads : (s.IMEM.writeWord pc (tableWord nbits w)).readWord pc = tableWord nbits w :=
    (Memory.readWord_writeWord s.IMEM pc pc _).trans (if_pos rfl)
  exact ⟨pc, plen, _, placed, kept, reaches, reads⟩

end Sys2Proof.Machine

/-! The decoder and the encoder (spec/30_encoding.md R50 to R61): each undoes the other, the decoder rejects the words of R59
and no others, and every word the assembler makes (R60 to R67) is one that decodes. -/

namespace Sys2Proof

/-! ## Every row of the class table (30_encoding.md R57)

`build` and `classRow` read one table, the one for the instruction, the other for format and class. The three lemmas here go
through its rows; later proofs cite them. -/

/-- The word of opcode `o` and form `fm` in format `f` whose operand fields are those of `w` (R51, R52). -/
def encodeAs (f : Format) (o : Opcode) (fm : Nat) (w : InstrWord) : InstrWord :=
  match f with
  | .N => encodeN o fm
  | .R1 => encodeR1 o fm (Reg.ofField (rs1Field w))
  | .R2 => encodeR2 o fm (Reg.ofField (rs1Field w)) (Reg.ofField (rs2Field w))
  | .R3 => encodeR3 o fm (Reg.ofField (rs1Field w)) (Reg.ofField (rs2Field w)) (Reg.ofField (rdField w))
  | .I => encodeI o fm (imm16Field w)

/-- What is built for a row is encoded with that row's opcode, form and format, from the same operand fields; it is ill formed
just when the row is a literal jump and its literal is line 0 (R56, R59). -/
theorem encode_and_wellFormed_of_build {o : Opcode} {fm : Nat} {w : InstrWord} {i : Instr} (built : build o fm w = some i) :
    encode i = encodeAs (classRow o fm).1 o fm w ∧
      i.wellFormed = !(o.isJump && (classRow o fm).1 == .I && imm16Field w == 0) := by
  cases o
  all_goals
    simp only [build] at built
    split at built <;> cases built <;> exact ⟨rfl, rfl⟩

/-- The rows that build an instruction are those whose class is not ILLEGAL. -/
theorem build_isSome (o : Opcode) (fm : Nat) (w : InstrWord) :
    (build o fm w).isSome = ((classRow o fm).2 != .illegal) := by
  rcases fm with _ | _ | _ | _ | _ | _ | fm
  all_goals cases o <;> rfl

theorem exists_build_of_legal {o : Opcode} {fm : Nat} (legal : (classRow o fm).2 ≠ .illegal) (w : InstrWord) :
    ∃ i, build o fm w = some i := by
  rw [← Option.isSome_iff_exists, build_isSome, bne_iff_ne]
  exact legal

/-! ## A word without stray bits is made of its fields (30_encoding.md R51, R52) -/

theorem assembleFields_of_fields {w : InstrWord} {o : Opcode} {p : BitVec 24}
    (opcode : Opcode.ofField (opField w) = some o) (payload : w.extractLsb' 8 24 = p) :
    assembleFields p o (fmField w).toNat = w := by
  subst payload
  apply BitVec.eq_of_toNat_eq
  rw [toNat_assemble, Opcode.toField_of_ofField opcode, opField, fmField, toNat_slice, toNat_slice, toNat_slice]
  omega

/-- A mask that is 0 in a word says so of every slice it covers. -/
theorem slice_eq_zero_of_mask {n start len : Nat} {w m : BitVec n} (clear : w &&& m = 0)
    (covered : m.extractLsb' start len = BitVec.allOnes len) : w.extractLsb' start len = 0 := by
  have h := congrArg (BitVec.extractLsb' start len) clear
  rwa [BitVec.extractLsb'_and, covered, BitVec.and_allOnes, BitVec.ofNat_eq_ofNat, BitVec.extractLsb'_zero] at h

/-- Two neighbouring slices make one. -/
theorem slice_split {n : Nat} (w : BitVec n) (start low high : Nat) :
    w.extractLsb' start (high + low) = w.extractLsb' (start + low) high ++ w.extractLsb' start low :=
  (BitVec.extractLsb'_append_extractLsb'_eq_extractLsb' rfl).symm

/-- Where the must-be-zero bits of a format are 0, the word is the one of that format with the word's own fields. -/
theorem encodeAs_of_fields {w : InstrWord} {o : Opcode} {f : Format} (opcode : Opcode.ofField (opField w) = some o)
    (clear : w &&& f.mbz = 0) : encodeAs f o (fmField w).toNat w = w := by
  cases f with
  | N => exact assembleFields_of_fields opcode (slice_eq_zero_of_mask clear rfl)
  | R1 =>
    refine assembleFields_of_fields opcode ?_
    have above : w.extractLsb' 11 21 = 0 := slice_eq_zero_of_mask clear rfl
    rw [slice_split w 8 3 21, above, Reg.toField_ofField]
    rfl
  | R2 =>
    refine assembleFields_of_fields opcode ?_
    have above : w.extractLsb' 14 18 = 0 := slice_eq_zero_of_mask clear rfl
    rw [slice_split w 8 3 21, slice_split w 11 3 18, above, Reg.toField_ofField, Reg.toField_ofField]
    rfl
  | R3 =>
    refine assembleFields_of_fields opcode ?_
    have above : w.extractLsb' 17 15 = 0 := slice_eq_zero_of_mask clear rfl
    rw [slice_split w 8 3 21, slice_split w 11 3 18, slice_split w 14 3 15, above, Reg.toField_ofField, Reg.toField_ofField,
      Reg.toField_ofField]
    rfl
  | I =>
    refine assembleFields_of_fields opcode ?_
    have below : w.extractLsb' 8 8 = 0 := slice_eq_zero_of_mask clear rfl
    rw [slice_split w 8 8 16, below]
    rfl

/-! ## What the decoder and the class function reject (30_encoding.md R58, R59) -/

/-- R58 of a word with opcode `o`: its row is ILLEGAL, or a must-be-zero bit is 1, or it is a literal jump to line 0. -/
def RejectedRow (o : Opcode) (w : InstrWord) : Prop :=
  (classRow o (fmField w).toNat).2 = .illegal ∨ w &&& (classRow o (fmField w).toNat).1.mbz ≠ 0 ∨ zeroTarget w = true

theorem zeroTarget_of_opcode {w : InstrWord} {o : Opcode} (opcode : Opcode.ofField (opField w) = some o) :
    zeroTarget w = (o.isJump && (classRow o (fmField w).toNat).1 == .I && imm16Field w == 0) := by
  simp only [zeroTarget, opcode]

theorem decode_of_reserved {w : InstrWord} (reserved : Opcode.ofField (opField w) = none) :
    decode w = .error .reservedOpcode := by
  simp only [decode, reserved]

theorem decodeClass_of_reserved {w : InstrWord} (reserved : Opcode.ofField (opField w) = none) :
    decodeClass w = .illegal := by
  simp only [decodeClass, classTable, reserved, if_true]

theorem decode_error_iff {w : InstrWord} {o : Opcode} (opcode : Opcode.ofField (opField w) = some o) :
    (∃ e, decode w = .error e) ↔ RejectedRow o w := by
  simp only [decode, opcode, RejectedRow]
  split_ifs with illegal stray zero
  · exact iff_of_true ⟨_, rfl⟩ (.inl illegal)
  · exact iff_of_true ⟨_, rfl⟩ (.inr (.inl stray))
  · exact iff_of_true ⟨_, rfl⟩ (.inr (.inr zero))
  · obtain ⟨i, built⟩ := exists_build_of_legal illegal w
    rw [built]
    exact iff_of_false (fun ⟨_, rejected⟩ => nomatch rejected) (not_or.mpr ⟨illegal, not_or.mpr ⟨stray, zero⟩⟩)

theorem decodeClass_illegal_iff {w : InstrWord} {o : Opcode} (opcode : Opcode.ofField (opField w) = some o) :
    decodeClass w = .illegal ↔ RejectedRow o w := by
  simp only [decodeClass, classTable, opcode, RejectedRow]
  split_ifs with illegal stray zero
  · exact iff_of_true rfl (.inl illegal)
  · exact iff_of_true rfl (.inr (.inl stray))
  · exact iff_of_true rfl (.inr (.inr zero))
  · exact iff_of_false illegal (not_or.mpr ⟨illegal, not_or.mpr ⟨stray, zero⟩⟩)

/-! ## The lines of R59 in raw field numbers -/

theorem ofField_eq_none_iff (f : BitVec 5) : Opcode.ofField f = none ↔ f.toNat = 0 ∨ 19 ≤ f.toNat := by
  revert f
  decide

/-- The ILLEGAL rows: forms 6 and 7, and form 5 of an opcode without a literal form (R57). -/
theorem classRow_illegal_iff (o : Opcode) (fm : BitVec 3) :
    (classRow o fm.toNat).2 = .illegal ↔
      6 ≤ fm.toNat ∨ (fm.toNat = 5 ∧ o.toField.toNat ∉ [1, 15, 16, 17]) := by
  revert fm
  cases o <;> decide

/-- The mask of a row is the one R52 and R58 give its opcode number and form. -/
theorem mustBeZero_eq_mbz (o : Opcode) (fm : BitVec 3) :
    Stated.mustBeZero o.toField.toNat fm.toNat = (classRow o fm.toNat).1.mbz := by
  revert fm
  cases o <;> decide

/-- The literal jumps are opcodes 15 to 17 in form 1 (R57). -/
theorem isLiteralJump_iff (o : Opcode) (fm : BitVec 3) :
    (o.isJump && (classRow o fm.toNat).1 == .I) = true ↔ o.toField.toNat ∈ [15, 16, 17] ∧ fm.toNat = 1 := by
  revert fm
  cases o <;> decide

/-! ## Decoding an encoded instruction, by format -/

theorem decode_encodeN {o : Opcode} {fm : Nat} {c : DecodeClass} {i : Instr}
    (row : classRow o (BitVec.ofNat 3 fm).toNat = (.N, c)) (legal : c ≠ .illegal)
    (built : ∀ w, build o (BitVec.ofNat 3 fm).toNat w = some i) : decode (encodeN o fm) = .ok i :=
  decode_assemble row legal (mbz_encodeN o fm) (fun _ isI => nomatch isI) (built _)

theorem decode_encodeR1 {o : Opcode} {fm : Nat} {c : DecodeClass} {mk : Reg → Instr} (rs1 : Reg)
    (row : classRow o (BitVec.ofNat 3 fm).toNat = (.R1, c)) (legal : c ≠ .illegal)
    (built : ∀ w, build o (BitVec.ofNat 3 fm).toNat w = some (mk (Reg.ofField (rs1Field w)))) :
    decode (encodeR1 o fm rs1) = .ok (mk rs1) := by
  refine decode_assemble row legal (mbz_encodeR1 o fm rs1) (fun _ isI => nomatch isI) ((built _).trans ?_)
  rw [rs1Field_assemble, slice_payloadR1, Reg.ofField_toField]

theorem decode_encodeR2 {o : Opcode} {fm : Nat} {c : DecodeClass} {mk : Reg → Reg → Instr} (rs1 rs2 : Reg)
    (row : classRow o (BitVec.ofNat 3 fm).toNat = (.R2, c)) (legal : c ≠ .illegal)
    (built : ∀ w, build o (BitVec.ofNat 3 fm).toNat w =
      some (mk (Reg.ofField (rs1Field w)) (Reg.ofField (rs2Field w)))) :
    decode (encodeR2 o fm rs1 rs2) = .ok (mk rs1 rs2) := by
  refine decode_assemble row legal (mbz_encodeR2 o fm rs1 rs2) (fun _ isI => nomatch isI) ((built _).trans ?_)
  obtain ⟨first, second⟩ := slice_payloadR2 rs1 rs2
  rw [rs1Field_assemble, rs2Field_assemble, first, second, Reg.ofField_toField, Reg.ofField_toField]

theorem decode_encodeR3 {o : Opcode} {fm : Nat} {c : DecodeClass} {mk : Reg → Reg → Reg → Instr} (rs1 rs2 rd : Reg)
    (row : classRow o (BitVec.ofNat 3 fm).toNat = (.R3, c)) (legal : c ≠ .illegal)
    (built : ∀ w, build o (BitVec.ofNat 3 fm).toNat w =
      some (mk (Reg.ofField (rs1Field w)) (Reg.ofField (rs2Field w)) (Reg.ofField (rdField w)))) :
    decode (encodeR3 o fm rs1 rs2 rd) = .ok (mk rs1 rs2 rd) := by
  refine decode_assemble row legal (mbz_encodeR3 o fm rs1 rs2 rd) (fun _ isI => nomatch isI) ((built _).trans ?_)
  obtain ⟨first, second, third⟩ := slice_payloadR3 rs1 rs2 rd
  rw [rs1Field_assemble, rs2Field_assemble, rdField_assemble, first, second, third, Reg.ofField_toField,
    Reg.ofField_toField, Reg.ofField_toField]

theorem decode_encodeI {o : Opcode} {fm : Nat} {c : DecodeClass} {mk : Index → Instr} (imm : Index)
    (row : classRow o (BitVec.ofNat 3 fm).toNat = (.I, c)) (legal : c ≠ .illegal) (target : o.isJump = true → imm ≠ 0)
    (built : ∀ w, build o (BitVec.ofNat 3 fm).toNat w = some (mk (imm16Field w))) :
    decode (encodeI o fm imm) = .ok (mk imm) := by
  refine decode_assemble row legal (mbz_encodeI o fm imm) (fun jump _ => ?_) ((built _).trans ?_)
  · rw [slice_payloadI]
    exact target jump
  · rw [imm16Field_assemble, slice_payloadI]

end Sys2Proof

namespace Sys2Proof.Machine

/-! ## The statements about words (30_encoding.md R51 to R59) -/

/-- Settles O1, format by format: the fields of the assembled word are those the row's instruction is built from. The literal
jumps are the rows where well-formedness is needed. -/
theorem decodeOfEncodeIsIdentity : Obligations.DecodeOfEncodeIsIdentity := by
  intro i wf
  cases i with
  | pushLit imm => exact decode_encodeI imm rfl (by decide) (fun jump => nomatch jump) fun _ => rfl
  | jeLit target | jmaLit target | jneLit target =>
    exact decode_encodeI target rfl (by decide) (fun _ => bne_iff_ne.mp wf) fun _ => rfl
  | incReg rs1 | decReg rs1 => exact decode_encodeR1 rs1 rfl (by decide) fun _ => rfl
  | cmpReg rs1 rs2 => exact decode_encodeR2 rs1 rs2 rfl (by decide) fun _ => rfl
  | addReg rs1 rs2 rd | subReg rs1 rs2 rd | imulReg rs1 rs2 rd | idivReg rs1 rs2 rd | andReg rs1 rs2 rd | orReg rs1 rs2 rd
  | xorReg rs1 rs2 rd | shlReg rs1 rs2 rd | shrReg rs1 rs2 rd =>
    exact decode_encodeR3 rs1 rs2 rd rfl (by decide) fun _ => rfl
  | _ => exact decode_encodeN rfl (by decide) fun _ => rfl

/-- Settles O2: what is built is encoded in its row's format from the word's own fields, and a word without stray bits is made
of them. -/
theorem encodeOfDecodeIsIdentity : Obligations.EncodeOfDecodeIsIdentity := by
  intro w i decoded
  obtain ⟨o, opcode, _, clear, target, built⟩ := decode_ok decoded
  obtain ⟨encoded, wf⟩ := encode_and_wellFormed_of_build built
  constructor
  · rw [wf, ← zeroTarget_of_opcode opcode, target]
    rfl
  · rw [encoded, encodeAs_of_fields opcode clear]

/-- Settles O4: with a legal opcode number both answers are `RejectedRow`, with a reserved one both reject. -/
theorem decoderAgreesWithTheClassFunction : Obligations.DecoderAgreesWithTheClassFunction := by
  intro w
  cases opcode : Opcode.ofField (opField w) with
  | none => exact ⟨fun _ => ⟨_, decode_of_reserved opcode⟩, fun _ => decodeClass_of_reserved opcode⟩
  | some o => exact (decodeClass_illegal_iff opcode).trans (decode_error_iff opcode).symm

/-- Settles O3: `RejectedRow` in raw field numbers, and the reserved opcode numbers. -/
theorem decoderRejectsExactlyTheIllegalWords : Obligations.DecoderRejectsExactlyTheIllegalWords := by
  intro w op fm
  cases opcode : Opcode.ofField (opField w) with
  | none =>
    exact ⟨fun _ => .inl ((ofField_eq_none_iff _).mp opcode), fun _ => ⟨_, decode_of_reserved opcode⟩⟩
  | some o =>
    have number : op = o.toField.toNat := by rw [Opcode.toField_of_ofField opcode]; rfl
    have known : ¬ (op = 0 ∨ 19 ≤ op) := fun reserved => by
      rw [(ofField_eq_none_iff (opField w)).mpr reserved] at opcode
      cases opcode
    have zero : zeroTarget w = true ↔ op ∈ [15, 16, 17] ∧ fm = 1 ∧ w.extractLsb' 16 16 = 0 := by
      rw [zeroTarget_of_opcode opcode, Bool.and_eq_true, isLiteralJump_iff, beq_iff_eq, and_assoc, number]
      rfl
    rw [decode_error_iff opcode, RejectedRow, classRow_illegal_iff, ← mustBeZero_eq_mbz, zero, or_iff_right known, number,
      or_assoc]
    rfl

/-- Settles O5: each of the words is the encoding of its instruction. -/
theorem writtenOutWordsDecode : Obligations.WrittenOutWordsDecode :=
  have decodes := decodeOfEncodeIsIdentity
  ⟨decodes .pushReg rfl, decodes (.pushLit 0xFFFF) rfl, decodes .pop rfl, decodes (.addReg .a .b .c) rfl,
    decodes (.subReg .h .g .f) rfl, decodes (.decReg .h) rfl, decodes (.cmpReg .a .b) rfl, decodes (.jeLit 5) rfl,
    decodes .jmaStack rfl, decodes .skip rfl, decodes .pushFm5 rfl⟩

/-! ## The words the assembler makes (30_encoding.md R63, R67)

The branches of `assembleRecord` are those of the class table: each form number has the format the assembler chose. -/

theorem format_form_zero (o : Opcode) : (classRow o 0).1 = .N := by
  cases o <;> rfl

theorem format_form_one (o : Opcode) :
    (classRow o 1).1 = if o == .push || o.isJump then .I else if o == .inc || o == .dec then .R1 else .N := by
  cases o <;> rfl

theorem format_form_two (o : Opcode) : (classRow o 2).1 = if o == .cmp then .R2 else .N := by
  cases o <;> rfl

theorem format_form_three (o : Opcode) : (classRow o 3).1 = if isBinaryOp o then .R3 else .N := by
  cases o <;> rfl

theorem format_form_four (o : Opcode) : (classRow o 4).1 = .N := by
  cases o <;> rfl

theorem format_form_five (o : Opcode) : (classRow o 5).1 = .N := by
  cases o <;> rfl

theorem toNat_form {fm : Nat} (isForm : fm < 8) : (BitVec.ofNat 3 fm).toNat = fm :=
  (BitVec.toNat_ofNat fm 3).trans (Nat.mod_eq_of_lt isForm)

/-- Forms 0 to 4 are legal for every opcode. -/
theorem legal_form_le_four (o : Opcode) {fm : Nat} (small : fm ≤ 4) : (classRow o fm).2 ≠ .illegal := by
  have number : (BitVec.ofNat 3 fm).toNat = fm := toNat_form (by omega)
  rw [← number, Ne, classRow_illegal_iff, number]
  omega

/-- Form 5 is legal for the opcodes with a literal form. -/
theorem legal_form_five {o : Opcode} (takesLiteral : (o == .push || o.isJump) = true) : (classRow o 5).2 ≠ .illegal := by
  revert takesLiteral
  cases o <;> decide

/-- A word assembled in the format of a legal row decodes, unless it is a jump to line 0. -/
theorem exists_decode_assemble {p : BitVec 24} {o : Opcode} {fm : Nat} {f : Format} (isForm : fm < 8)
    (format : (classRow o fm).1 = f) (legal : (classRow o fm).2 ≠ .illegal) (clear : assembleFields p o fm &&& f.mbz = 0)
    (target : o.isJump = true → f = .I → p.extractLsb' 8 16 ≠ 0) : ∃ i, decode (assembleFields p o fm) = .ok i := by
  have number : (BitVec.ofNat 3 fm).toNat = fm := toNat_form isForm
  obtain ⟨i, built⟩ := exists_build_of_legal legal (assembleFields p o fm)
  exact ⟨i, decode_assemble (by rw [number]; exact Prod.ext format rfl) legal clear target (by rw [number]; exact built)⟩

theorem exists_decode_encodeN {o : Opcode} {fm : Nat} (isForm : fm < 8) (format : (classRow o fm).1 = .N)
    (legal : (classRow o fm).2 ≠ .illegal) : ∃ i, decode (encodeN o fm) = .ok i :=
  exists_decode_assemble isForm format legal (mbz_encodeN o fm) fun _ isI => nomatch isI

/-- A line number is no word's zero target. -/
theorem ofInt_line_ne_zero {v : Int} (line : 1 ≤ v ∧ v ≤ 65535) : BitVec.ofInt 16 v ≠ 0 := by
  intro zero
  have : (v % 65536).toNat = 0 := by simpa using congrArg BitVec.toNat zero
  omega

theorem exists_decode_assembleLiteral {o : Opcode} {t : List Char} {w : InstrWord}
    (takesLiteral : (o == .push || o.isJump) = true) (assembled : assembleLiteral o t = .ok w) :
    ∃ i, decode w = .ok i := by
  have format : (classRow o 1).1 = .I := by rw [format_form_one, if_pos takesLiteral]
  have literal (v : Int) (target : o.isJump = true → BitVec.ofInt 16 v ≠ 0) :
      ∃ i, decode (encodeI o 1 (BitVec.ofInt 16 v)) = .ok i :=
    exists_decode_assemble (by decide) format (legal_form_le_four o (by decide)) (mbz_encodeI o 1 _) fun jump _ => by
      rw [slice_payloadI]
      exact target jump
  unfold assembleLiteral at assembled
  split at assembled
  · cases assembled
    exact exists_decode_encodeN (by decide) (format_form_five o) (legal_form_five takesLiteral)
  · next v _ =>
    split at assembled
    · split at assembled
      · next line =>
        cases assembled
        exact literal v fun _ => ofInt_line_ne_zero line
      · cases assembled
    · next noJump =>
      split at assembled
      · cases assembled
        exact literal v fun jump => absurd jump noJump
      · cases assembled

theorem exists_decode_assembleRecord {o : Opcode} {operands : List (List Char)} {w : InstrWord}
    (assembled : assembleRecord o operands = .ok w) : ∃ i, decode w = .ok i := by
  have noOperand {fm : Nat} (small : fm ≤ 4) (format : (classRow o fm).1 = .N) : ∃ i, decode (encodeN o fm) = .ok i :=
    exists_decode_encodeN (by omega) format (legal_form_le_four o small)
  unfold assembleRecord at assembled
  split at assembled
  · cases assembled
    exact noOperand (by decide) (format_form_zero o)
  · have format := format_form_one o
    split at assembled
    · next takesLiteral => exact exists_decode_assembleLiteral takesLiteral assembled
    · next noLiteral =>
      rw [if_neg noLiteral] at format
      split at assembled
      · next takesRegister =>
        rw [if_pos takesRegister] at format
        split at assembled <;> cases assembled
        exact exists_decode_assemble (by decide) format (legal_form_le_four o (by decide)) (mbz_encodeR1 o 1 _)
          fun _ isI => nomatch isI
      · next noRegister =>
        rw [if_neg noRegister] at format
        cases assembled
        exact noOperand (by decide) format
  · have format := format_form_two o
    split at assembled
    · next isCmp =>
      rw [if_pos isCmp] at format
      split at assembled <;> cases assembled
      exact exists_decode_assemble (by decide) format (legal_form_le_four o (by decide)) (mbz_encodeR2 o 2 _ _)
        fun _ isI => nomatch isI
    · next notCmp =>
      rw [if_neg notCmp] at format
      cases assembled
      exact noOperand (by decide) format
  · have format := format_form_three o
    split at assembled
    · next binary =>
      rw [if_pos binary] at format
      split at assembled <;> cases assembled
      exact exists_decode_assemble (by decide) format (legal_form_le_four o (by decide)) (mbz_encodeR3 o 3 _ _ _)
        fun _ isI => nomatch isI
    · next notBinary =>
      rw [if_neg notBinary] at format
      cases assembled
      exact noOperand (by decide) format
  · cases assembled
    exact noOperand (by decide) (format_form_four o)

/-- Settles O59: a line is `skip` or a record, and every record's word decodes. -/
theorem assembledLinesAreLegalWords : Obligations.AssembledLinesAreLegalWords := by
  intro line w assembled
  have skips : ∃ i, decode (encodeN .skip 0) = .ok i := ⟨.skip, decodeOfEncodeIsIdentity .skip rfl⟩
  unfold assembleLine at assembled
  split at assembled
  · cases assembled
    exact skips
  · split at assembled
    · cases assembled
      exact skips
    · split at assembled
      · exact exists_decode_assembleRecord assembled
      · cases assembled

end Sys2Proof.Machine

/-! The sequencer (spec/40_sequencer.md R71 to R77, R80): what a step of a RUNNING core does, the faults of the operand shapes,
where the handler PC and `pc` can stand, and host `Execute`. -/

namespace Sys2Proof.Machine

open Sys2Proof.Stated

/-! ## A step of a RUNNING core (40_sequencer.md R71, R74) -/

theorem State.atEnd_of_le {s : State} (beyond : s.PLEN.toNat ≤ s.pc.toNat) : s.atEnd = true := decide_eq_true beyond

theorem State.not_atEnd_of_lt {s : State} (inside : s.pc.toNat < s.PLEN.toNat) : s.atEnd = false :=
  decide_eq_false (Nat.not_le.mpr inside)

/-- A commit is no fault: it leaves STATUS as it was. -/
theorem Commits.status {i : Instr} {s t : State} (h : Commits i s t) : t.STATUS = s.STATUS := by
  obtain ⟨x, stack, z, p, pc, rfl, -⟩ := h
  rfl

theorem Commits.plen {i : Instr} {s t : State} (h : Commits i s t) : t.PLEN = s.PLEN := by
  obtain ⟨x, stack, z, p, pc, rfl, -⟩ := h
  rfl

/-- A step that fetches an instruction is its handler and then the increment. -/
theorem step_of_exec {s t : State} {i : Instr} (running : s.STATUS = .running) (inside : s.pc.toNat < s.PLEN.toNat)
    (word : decode s.fetch = .ok i) (answers : exec i s = .next t) : step s = .next (postStep t) := by
  rw [step_executes running (State.not_atEnd_of_lt inside) word, answers, afterHandler_next]

/-- A step that fetches raises a fault, or its instruction commits and the step adds the increment. -/
theorem step_fetched_cases {s : State} (running : s.STATUS = .running) (inside : s.pc.toNat < s.PLEN.toNat) :
    (∃ c, step s = faulted s c) ∨
    ∃ i t, decode s.fetch = .ok i ∧ exec i s = .next t ∧ Commits i s t ∧ step s = .next { t with pc := t.pc + 1 } := by
  cases word : decode s.fetch with
  | error e => exact .inl ⟨.illegalInstruction, step_illegal running (State.not_atEnd_of_lt inside) word⟩
  | ok i =>
    obtain ⟨t, answers⟩ := exec_total i s
    have steps := step_of_exec running inside word answers
    rcases exec_cases answers with ⟨c, rfl⟩ | commits
    · exact .inl ⟨c, steps.trans (congrArg _ (postStep_faulted rfl))⟩
    · have sound : t.STATUS.isFaulted = false := by rw [commits.status, running]; rfl
      exact .inr ⟨i, t, rfl, answers, commits, steps.trans (congrArg _ (postStep_advance sound))⟩

/-! ## Operand-shape faults (40_sequencer.md R72) -/

/-- The fault that R72 gives a decode class; EXEC has none. -/
def shapeFault : DecodeClass → Option FaultCause
  | .exec => none
  | .illegal => some .illegalInstruction
  | .incomplete => some .incompleteOperands
  | .arity => some .arityError
  | .badlit => some .invalidOperand

/-- Row by row of the class table: what is built for a row of a class with a fault does nothing but raise it. -/
theorem exec_of_shapeFault {o : Opcode} {fm : Nat} {w : InstrWord} {i : Instr} {c : FaultCause}
    (built : build o fm w = some i) (fault : shapeFault (classRow o fm).2 = some c) (s : State) : exec i s = raise c s := by
  cases o
  all_goals
    simp only [build] at built
    split at built <;> cases built <;> cases fault <;> rfl

/-- The class of a word that decodes is that of the row its instruction is built from. -/
theorem decodeClass_of_decode {w : InstrWord} {i : Instr} (word : decode w = .ok i) :
    ∃ o, decodeClass w = (classRow o (fmField w).toNat).2 ∧ build o (fmField w).toNat w = some i := by
  obtain ⟨o, opcode, legal, clear, target, built⟩ := decode_ok word
  refine ⟨o, ?_, built⟩
  simp only [decodeClass, classTable, opcode, legal, clear, target, ne_eq, not_true_eq_false, Bool.false_eq_true, if_false]

/-- A fetched word of a class with a fault makes the step raise it, whatever else the state holds. -/
theorem step_of_shapeFault {s : State} {c : FaultCause} (running : s.STATUS = .running)
    (inside : s.pc.toNat < s.PLEN.toNat) (fault : shapeFault (decodeClass s.fetch) = some c) : step s = faulted s c := by
  cases word : decode s.fetch with
  | error e =>
    have illegal : decodeClass s.fetch = .illegal := (decoderAgreesWithTheClassFunction s.fetch).mpr ⟨e, word⟩
    rw [illegal] at fault
    cases fault
    exact step_illegal running (State.not_atEnd_of_lt inside) word
  | ok i =>
    obtain ⟨o, row, built⟩ := decodeClass_of_decode word
    rw [row] at fault
    have steps := step_of_exec running inside word (exec_of_shapeFault built fault s)
    exact steps.trans (congrArg _ (postStep_faulted rfl))

/-! ## The handler PC (40_sequencer.md R73; 44_jumps.md R104, R105) -/

theorem binaryReg_pc (f : AluOp) (rs1 rs2 rd : Reg) {s t : State} (h : binaryReg f rs1 rs2 rd s = .next t) :
    t.pc = s.pc := by
  rcases binaryReg_cases h with ⟨_, -, rfl⟩ | ⟨_, -, rfl⟩ <;> rfl

theorem unaryReg_pc (f : AluOp) (rs1 : Reg) {s t : State} (h : unaryReg f rs1 s = .next t) : t.pc = s.pc := by
  rcases unaryReg_cases h with ⟨_, -, rfl⟩ | ⟨_, -, rfl⟩ <;> rfl

theorem binaryStack_pc (f : AluOp) {s t : State} (h : binaryStack f s = .next t) : t.pc = s.pc := by
  rcases binaryStack_cases h with ⟨-, rfl⟩ | ⟨_, _, _, _, -, -, rfl⟩ | ⟨_, _, _, _, -, -, rfl⟩ <;> rfl

theorem unaryStack_pc (f : AluOp) {s t : State} (h : unaryStack f s = .next t) : t.pc = s.pc := by
  rcases unaryStack_cases h with ⟨-, rfl⟩ | ⟨_, _, _, -, -, rfl⟩ | ⟨_, _, _, -, -, rfl⟩ <;> rfl

theorem execPushReg_pc {s t : State} (h : execPushReg s = .next t) : t.pc = s.pc := by
  rcases execPushReg_cases h with ⟨-, rfl⟩ | ⟨-, rfl⟩ <;> rfl

theorem execPushLit_pc {imm : Index} {s t : State} (h : execPushLit imm s = .next t) : t.pc = s.pc := by
  rcases execPushLit_cases h with ⟨-, rfl⟩ | ⟨-, rfl⟩ <;> rfl

theorem execPop_pc {s t : State} (h : execPop s = .next t) : t.pc = s.pc := by
  rcases execPop_cases h with ⟨-, rfl⟩ | ⟨_, _, -, rfl⟩ <;> rfl

theorem execCmpStack_pc {s t : State} (h : execCmpStack s = .next t) : t.pc = s.pc := by
  rcases execCmpStack_cases h with ⟨-, rfl⟩ | ⟨_, _, _, -, rfl⟩ <;> rfl

theorem jumpLiteral_pc {c : Bool} {target : Index} {s t : State} (h : jumpLiteral c target s = .next t) :
    t.pc = s.pc ∨ (c = true ∧ t.pc = target - 2) := by
  cases next_inj ((jumpLiteral_eq c target s).symm.trans h)
  cases c with
  | false => exact .inl rfl
  | true => exact .inr ⟨rfl, rfl⟩

/-- An index that passed the bounds check lies below `PLEN` (44_jumps.md R103). -/
theorem toNat_ofInt_lt {j : Int} {len : Index} (low : 0 ≤ j) (high : j < uval len) :
    (BitVec.ofInt 16 j).toNat < len.toNat := by
  have := len.isLt
  rw [BitVec.toNat_ofInt]
  simp only [uval] at high
  omega

theorem jumpStack_pc {c : Bool} {s t : State} (h : jumpStack c s = .next t) :
    t.pc = s.pc ∨ (c = true ∧ t.pc.toNat < s.PLEN.toNat) := by
  rcases jumpStack_cases h with ⟨-, rfl⟩ | ⟨_, _, -, -, rfl⟩ | ⟨d, rest, -, low, high, rfl⟩
  · exact .inl rfl
  · exact .inl rfl
  · cases c with
    | false => exact .inl rfl
    | true => exact .inr ⟨rfl, toNat_ofInt_lt low high⟩

/-- Where a handler can leave the PC: where it was, at a taken literal jump's line less 2, or inside the program after a taken
stack-form jump. -/
def HandlerPc (i : Instr) (s t : State) : Prop :=
  t.pc = s.pc ∨ (∃ target, takenLiteral i target s ∧ t.pc = target - 2) ∨
    (takenStack i s ∧ t.pc.toNat < s.PLEN.toNat)

theorem HandlerPc.of_jumpLiteral {i : Instr} {c : Bool} {target : Index} {s t : State}
    (h : jumpLiteral c target s = .next t) (taken : c = true → takenLiteral i target s) : HandlerPc i s t :=
  (jumpLiteral_pc h).imp_right fun ⟨holds, pc⟩ => .inl ⟨target, taken holds, pc⟩

theorem HandlerPc.of_jumpStack {i : Instr} {c : Bool} {s t : State} (h : jumpStack c s = .next t)
    (taken : c = true → takenStack i s) : HandlerPc i s t :=
  (jumpStack_pc h).imp_right fun ⟨holds, pc⟩ => .inr ⟨taken holds, pc⟩

/-- Every instruction, by the shared form its handler calls; the shapes that are left over raise their fault. -/
theorem exec_handlerPc {i : Instr} {s t : State} (h : exec i s = .next t) : HandlerPc i s t := by
  cases i with
  | jeLit target => exact .of_jumpLiteral h fun z => .inl ⟨rfl, z⟩
  | jmaLit target => exact .of_jumpLiteral h fun z => .inr (.inl ⟨rfl, Bool.eq_false_of_not_eq_true' z⟩)
  | jneLit target => exact .of_jumpLiteral h fun z => .inr (.inr ⟨rfl, Bool.eq_false_of_not_eq_true' z⟩)
  | jeStack => exact .of_jumpStack h fun z => .inl ⟨rfl, z⟩
  | jmaStack => exact .of_jumpStack h fun z => .inr (.inl ⟨rfl, Bool.eq_false_of_not_eq_true' z⟩)
  | jneStack => exact .of_jumpStack h fun z => .inr (.inr ⟨rfl, Bool.eq_false_of_not_eq_true' z⟩)
  | addStack => exact .inl (binaryStack_pc .add h)
  | addReg rs1 rs2 rd => exact .inl (binaryReg_pc .add rs1 rs2 rd h)
  | subStack => exact .inl (binaryStack_pc .sub h)
  | subReg rs1 rs2 rd => exact .inl (binaryReg_pc .sub rs1 rs2 rd h)
  | imulStack => exact .inl (binaryStack_pc .mul h)
  | imulReg rs1 rs2 rd => exact .inl (binaryReg_pc .mul rs1 rs2 rd h)
  | idivStack => exact .inl (binaryStack_pc .div h)
  | idivReg rs1 rs2 rd => exact .inl (binaryReg_pc .div rs1 rs2 rd h)
  | andStack => exact .inl (binaryStack_pc .and h)
  | andReg rs1 rs2 rd => exact .inl (binaryReg_pc .and rs1 rs2 rd h)
  | orStack => exact .inl (binaryStack_pc .or h)
  | orReg rs1 rs2 rd => exact .inl (binaryReg_pc .or rs1 rs2 rd h)
  | xorStack => exact .inl (binaryStack_pc .xor h)
  | xorReg rs1 rs2 rd => exact .inl (binaryReg_pc .xor rs1 rs2 rd h)
  | shlStack => exact .inl (binaryStack_pc .shl h)
  | shlReg rs1 rs2 rd => exact .inl (binaryReg_pc .shl rs1 rs2 rd h)
  | shrStack => exact .inl (binaryStack_pc .shr h)
  | shrReg rs1 rs2 rd => exact .inl (binaryReg_pc .shr rs1 rs2 rd h)
  | incStack => exact .inl (unaryStack_pc .inc h)
  | incReg rs1 => exact .inl (unaryReg_pc .inc rs1 h)
  | decStack => exact .inl (unaryStack_pc .dec h)
  | decReg rs1 => exact .inl (unaryReg_pc .dec rs1 h)
  | pushReg => exact .inl (execPushReg_pc h)
  | pushLit => exact .inl (execPushLit_pc h)
  | pop => exact .inl (execPop_pc h)
  | cmpStack => exact .inl (execCmpStack_pc h)
  | _ =>
    cases next_inj h
    exact .inl rfl

/-! ## Where `pc` stands after the increment (40_sequencer.md R74, R75) -/

/-- A literal jump that was decoded names no line 0 (30_encoding.md R59). -/
theorem target_ne_zero {i : Instr} {target : Index} {s : State} (wf : i.wellFormed = true)
    (taken : takenLiteral i target s) : target ≠ 0 := by
  rcases taken with ⟨rfl, -⟩ | ⟨rfl, -⟩ | ⟨rfl, -⟩
  all_goals exact bne_iff_ne.mp wf

theorem toNat_succ_le {pc len : Index} (below : pc.toNat < len.toNat) : (pc + 1).toNat ≤ len.toNat := by
  bv_omega

/-- Line `target` is index `target - 1`, where the increment takes the handler PC of a literal jump. -/
theorem toNat_line {target : Index} (line : target ≠ 0) : (target - 2 + 1).toNat = target.toNat - 1 := by
  bv_omega

/-! ## The statements -/

/-- Settles O9: the fault of a word's class is the one its row's instruction raises, or that of a word that is none. -/
theorem shapeFaultsByDecodeClass : Obligations.ShapeFaultsByDecodeClass := by
  intro s running inside
  have raises {k : DecodeClass} {c : FaultCause} (row : shapeFault k = some c) (word : decodeClass s.fetch = k) :
      step s = faulted s c := step_of_shapeFault running inside (word ▸ row)
  exact ⟨raises rfl, raises rfl, raises rfl, raises rfl⟩

/-- Settles O10: the halt test, then the cases of a step that fetched; a commit leaves the core RUNNING. -/
theorem everyStepHaltsFaultsOrExecutes : Obligations.EveryStepHaltsFaultsOrExecutes := by
  intro s running
  rcases Nat.lt_or_ge s.pc.toNat s.PLEN.toNat with inside | beyond
  · rcases step_fetched_cases running inside with fault | ⟨i, t, word, answers, commits, steps⟩
    · exact .inr (.inl ⟨inside, fault⟩)
    · exact .inr (.inr ⟨inside, i, t, word, answers, commits.status.trans running, steps⟩)
  · exact .inl ⟨beyond, step_halts running (State.atEnd_of_le beyond)⟩

/-- Settles O44: the two other places of the handler PC are those of taken jumps. -/
theorem handlersMovePcOnlyInTakenJumps : Obligations.HandlersMovePcOnlyInTakenJumps := by
  intro i s t h moved
  rcases exec_handlerPc h with same | ⟨target, taken, -⟩ | ⟨taken, -⟩
  · exact absurd same moved
  · exact .inl ⟨target, taken⟩
  · exact .inr taken

/-- Settles O50: a fault keeps `pc` below `PLEN`; otherwise the handler PC is below `PLEN`, or it is a line less 2. -/
theorem pcStaysWithinTheProgram : Obligations.PcStaysWithinTheProgram := by
  intro s t running inside h
  rcases step_fetched_cases running inside with ⟨c, steps⟩ | ⟨i, u, word, answers, commits, steps⟩
  · cases next_inj (steps.symm.trans h)
    exact .inl inside.le
  · cases next_inj (steps.symm.trans h)
    rw [commits.plen]
    rcases exec_handlerPc answers with same | ⟨target, taken, pc⟩ | ⟨-, below⟩
    · exact .inl (toNat_succ_le (same ▸ inside))
    · obtain ⟨wf, -⟩ := encodeOfDecodeIsIdentity _ i word
      have index : (u.pc + 1).toNat = target.toNat - 1 := by rw [pc, toNat_line (target_ne_zero wf taken)]
      rcases Nat.lt_or_ge s.PLEN.toNat target.toNat with beyond | within
      · exact .inr ⟨i, target, word, taken, beyond, index⟩
      · exact .inl (index ▸ (Nat.sub_le _ 1).trans within)
    · exact .inl (toNat_succ_le below)

/-- Settles O7: the step is the handler's answer with `postStep`, which is the increment of the statement. -/
theorem stepRunsTheDecodedInstruction : Obligations.StepRunsTheDecodedInstruction := by
  intro s i running inside word
  obtain ⟨wf, -⟩ := encodeOfDecodeIsIdentity _ i word
  obtain ⟨t, answers⟩ := exec_total i s
  exact ⟨wf, t, answers, step_of_exec running inside word answers⟩

/-- Settles O8: the halt test at and beyond `PLEN`; a stopped core takes no step and is not in IDLE. -/
theorem stepAtTheEndHaltsForGood : Obligations.StepAtTheEndHaltsForGood := by
  refine ⟨fun s running beyond => ⟨step_halts running (State.atEnd_of_le beyond), State.statusWord_cause _⟩,
    fun s running empty => ?_, fun s stopped => ?_⟩
  · have beyond : s.PLEN.toNat ≤ s.pc.toNat := by rw [empty]; exact Nat.zero_le _
    exact step_halts running (State.atEnd_of_le beyond)
  · have ⟨notRunning, notIdle⟩ : s.STATUS ≠ .running ∧ s.STATUS ≠ .idle := by
      rcases stopped with halted | ⟨c, fault⟩
      · rw [halted]
        exact ⟨nofun, nofun⟩
      · rw [fault]
        exact ⟨nofun, nofun⟩
    refine ⟨step_stopped notRunning, fun op t accepted => ?_, s.hostReset, rfl, rfl⟩
    by_contra other
    exact nomatch (hostOp_refused notIdle other).symm.trans accepted

/-- Settles O54: in IDLE `Execute` is decoder and handler alone, whose effect on STATUS is a handler's; `je 5` is one word. -/
theorem hostExecuteAddsNoIncrement : Obligations.HostExecuteAddsNoIncrement := by
  refine ⟨fun s w idle => ?_, fun s idle => ?_, fun s w busy => hostOp_refused busy nofun⟩
  · obtain ⟨x, stack, z, p, pc, status, answers, kept, -⟩ := handlerEffect_executeWord w s
    refine ⟨_, (hostOp_execute idle w).trans answers, ?_, fun e illegal => ?_, fun i legal => ?_⟩
    · rcases kept with same | ⟨c, fault⟩
      · exact .inl (same.trans idle)
      · exact .inr (congrArg Status.isFaulted fault)
    · exact next_inj (answers.symm.trans (executeWord_illegal illegal s))
    · exact (executeWord_legal legal s).symm.trans answers
  · have word : decode 0x0005002F#32 = .ok (.jeLit 5) := decodeOfEncodeIsIdentity (.jeLit 5) rfl
    rw [hostOp_execute idle, executeWord_legal word]
    exact jumpLiteral_eq s.Z 5 s

end Sys2Proof.Machine

/-! The stack-transfer instructions (spec/41_stack_transfer.md R81 to R83): what `push` and `pop` answer on a full, an empty and
any other stack, and that `pop` undoes the register form of `push`. -/

namespace Sys2Proof.Machine

open Sys2Proof.Stated

/-! ## The depth checks (10_state.md R18) -/

theorem State.stackFull_of_depth {s : State} (full : s.depth = s.SDEPTH) : s.stackFull = true := beq_iff_eq.mpr full

theorem State.not_stackFull_of_depth {s : State} (room : s.depth ≠ s.SDEPTH) : ¬ s.stackFull = true :=
  fun full => room (beq_iff_eq.mp full)

theorem stackTop_of_nil {s : State} (empty : s.stack = []) : s.stackTop = .error .stackUnderflow := by
  simp only [State.stackTop, empty]

theorem stackTop_of_cons {s : State} {v : BitVec s.N} {rest : List (BitVec s.N)} (cells : s.stack = v :: rest) :
    s.stackTop = .ok v := by
  simp only [State.stackTop, cells]

/-! ## `push` (41_stack_transfer.md R81) -/

theorem execPushReg_of_full {s : State} (full : s.depth = s.SDEPTH) : execPushReg s = faulted s .stackOverflow :=
  if_pos (State.stackFull_of_depth full)

theorem execPushReg_of_room {s : State} (room : s.depth ≠ s.SDEPTH) :
    execPushReg s = .next { s with x := s.x.shiftLeft, stack := s.x.get .a :: s.stack } :=
  if_neg (State.not_stackFull_of_depth room)

theorem execPushLit_of_full {s : State} (full : s.depth = s.SDEPTH) (imm : Index) :
    execPushLit imm s = faulted s .stackOverflow :=
  if_pos (State.stackFull_of_depth full)

theorem execPushLit_of_room {s : State} (room : s.depth ≠ s.SDEPTH) (imm : Index) :
    execPushLit imm s = .next { s with stack := s.literal imm :: s.stack } :=
  if_neg (State.not_stackFull_of_depth room)

/-- The sign-extended literal is the pattern of its signed value (00_scope.md R7). -/
theorem State.literal_eq_wrapN (s : State) (imm : Index) : s.literal imm = wrapN s.N (sval imm) := rfl

/-! ## `pop` (41_stack_transfer.md R82) -/

theorem execPop_of_nil {s : State} (empty : s.stack = []) : execPop s = faulted s .stackUnderflow := by
  rw [execPop_eq, stackTop_of_nil empty]
  rfl

theorem execPop_of_cons {s : State} {v : BitVec s.N} {rest : List (BitVec s.N)} (cells : s.stack = v :: rest) :
    execPop s = .next { s with x := s.x.shiftRight v, stack := rest } := by
  rw [execPop_eq, stackTop_of_cons cells]
  simp only [orRaise, State.popCell, State.withRegs, cells, List.tail_cons]

/-! ## `push`, then `pop` (41_stack_transfer.md R83) -/

/-- The value a left shift loses is `x[0]`; shifted back in, it restores the whole file (10_state.md R13, R14). -/
theorem RegFile.shiftRight_shiftLeft {n : Nat} (f : RegFile n) : f.shiftLeft.shiftRight (f.get .a) = f := rfl

theorem execPop_of_pushed (s : State) :
    execPop { s with x := s.x.shiftLeft, stack := s.x.get .a :: s.stack } = .next s := by
  rw [execPop_of_cons rfl, RegFile.shiftRight_shiftLeft]

/-! ## The statements -/

/-- Settles O36: `pop` reads back the cell that `push` wrote, and the register file shifts back around it. -/
theorem pushThenPopRestoresTheState : Obligations.PushThenPopRestoresTheState := fun s =>
  ⟨fun room => ⟨_, execPushReg_of_room room.ne, rfl, execPop_of_pushed s⟩, execPushReg_of_full⟩

/-- Settles O14: the words are the encodings of the shapes; the effects are those of the depth check of `push`. -/
theorem pushFollowsItsRule : Obligations.PushFollowsItsRule := by
  have decodes := decodeOfEncodeIsIdentity
  refine ⟨⟨decodes .pushReg rfl, fun imm => ?_, decodes .pushFm2 rfl, decodes .pushFm3 rfl, decodes .pushFm4 rfl,
    decodes .pushFm5 rfl⟩, fun s => ⟨fun full => ?_, fun room => ?_, rfl, rfl, rfl, rfl⟩⟩
  · exact decodes (.pushLit imm) rfl
  · exact ⟨execPushReg_of_full full, execPushLit_of_full full⟩
  · exact ⟨execPushReg_of_room room, fun imm => State.literal_eq_wrapN s imm ▸ execPushLit_of_room room imm⟩

/-- Settles O15: the words are the encodings of the shapes; the effects are those of the top cell that `pop` reads. -/
theorem popFollowsItsRule : Obligations.PopFollowsItsRule :=
  have decodes := decodeOfEncodeIsIdentity
  ⟨⟨decodes .pop rfl, decodes .popFm1 rfl, decodes .popFm2 rfl, decodes .popFm3 rfl, decodes .popFm4 rfl⟩,
    fun _ => ⟨execPop_of_nil, fun _ _ => execPop_of_cons, rfl, rfl, rfl, rfl⟩⟩

end Sys2Proof.Machine

/-! The arithmetic and bitwise family (spec/42_arithmetic.md R84 to R97): what each operator's two forms answer, told by the fault
and the result of the ALU; the ALU's integers held against the rational floor of R90 and R95; and what the results mean: wrapping
(R85), rounding (R86, R90) and long shifts (R94, R95). -/

namespace Sys2Proof.Machine

open Sys2Proof.Stated

/-! ## The ALU by its operand-value fault (42_arithmetic.md R86) -/

/-- The operand-value fault of an ALU operation: a zero divisor, a negative shift amount (42_arithmetic.md R90, R94, R95). -/
def operandFault {n : Nat} (f : AluOp) (b : BitVec n) : Option FaultCause :=
  match f with
  | .div => if sval b = 0 then some .divisionByZero else none
  | .shl | .shr => if sval b < 0 then some .negativeShift else none
  | .add | .sub | .mul | .and | .or | .xor | .inc | .dec => none

theorem sval_eq_zero_iff {n : Nat} {b : BitVec n} : sval b = 0 ↔ b = 0 := by
  rw [← BitVec.toInt_inj, BitVec.ofNat_eq_ofNat, BitVec.toInt_zero]

/-- The ALU raises the operand-value fault where there is one and answers its result otherwise. -/
theorem alu_eq {n : Nat} (f : AluOp) (a b : BitVec n) :
    alu f a b = (operandFault f b).elim (.ok (aluResult f a b)) .error := by
  rcases alu_cases f a b with ⟨rfl, zero, e⟩ | ⟨shift, negative, e⟩ | ⟨nonzero, nonnegative, e⟩
  · have fault : operandFault .div b = some .divisionByZero := if_pos (sval_eq_zero_iff.mpr zero)
    rw [e, fault, Option.elim_some]
  · have fault : operandFault f b = some .negativeShift := by
      rcases shift with rfl | rfl
      all_goals exact if_pos negative
    rw [e, fault, Option.elim_some]
  · have sound : operandFault f b = none := by
      cases f with
      | div => exact if_neg fun zero => nonzero ⟨rfl, sval_eq_zero_iff.mp zero⟩
      | shl => exact if_neg fun negative => nonnegative ⟨.inl rfl, negative⟩
      | shr => exact if_neg fun negative => nonnegative ⟨.inr rfl, negative⟩
      | _ => rfl
    rw [e, sound, Option.elim_none]

/-! ## The shared forms (42_arithmetic.md R84, R96, R97) -/

section Forms

variable {f : AluOp} {s : State} {a b : BitVec s.N} {rest : List (BitVec s.N)} {c : FaultCause}

theorem binaryReg_of_fault {rs1 rs2 rd : Reg} (fault : operandFault f (s.x.get rs2) = some c) :
    binaryReg f rs1 rs2 rd s = faulted s c := by
  rw [binaryReg_eq, alu_eq, fault]
  rfl

theorem binaryReg_of_sound {rs1 rs2 rd : Reg} (sound : operandFault f (s.x.get rs2) = none) :
    binaryReg f rs1 rs2 rd s = .next { s with x := s.x.set rd (aluResult f (s.x.get rs1) (s.x.get rs2)) } := by
  rw [binaryReg_eq, alu_eq, sound]
  rfl

theorem stackPair_of_depth (low : s.depth < 2) : s.stackPair = .error .stackUnderflow := by
  rcases stackPair_cases s with ⟨-, underflow⟩ | ⟨b, a, rest, cells, -⟩
  · exact underflow
  · simp [State.depth, cells] at low

theorem stackPair_of_cells (cells : s.stack = b :: a :: rest) : s.stackPair = .ok (a, b) := by
  simp only [State.stackPair, cells]

theorem binaryStack_of_depth (low : s.depth < 2) : binaryStack f s = faulted s .stackUnderflow := by
  rw [binaryStack_eq, stackPair_of_depth low]
  rfl

theorem binaryStack_of_fault (cells : s.stack = b :: a :: rest) (fault : operandFault f b = some c) :
    binaryStack f s = faulted s c := by
  rw [binaryStack_eq, stackPair_of_cells cells]
  simp only [orRaise, alu_eq, fault, Option.elim_some, raise_eq]

theorem binaryStack_of_sound (cells : s.stack = b :: a :: rest) (sound : operandFault f b = none) :
    binaryStack f s = .next { s with stack := aluResult f a b :: rest } := by
  rw [binaryStack_eq, stackPair_of_cells cells]
  simp only [orRaise, alu_eq, sound, Option.elim_none, State.combine, cells, List.drop_succ_cons, List.drop_zero]

theorem unaryReg_of_sound {rs1 : Reg} (sound : operandFault f (0 : BitVec s.N) = none) :
    unaryReg f rs1 s = .next { s with x := s.x.set rs1 (aluResult f (s.x.get rs1) 0) } := by
  rw [unaryReg_eq, alu_eq, sound]
  rfl

theorem unaryStack_of_nil (empty : s.stack = []) : unaryStack f s = faulted s .stackUnderflow := by
  rw [unaryStack_eq, stackTop_of_nil empty]
  rfl

theorem unaryStack_of_cons (cells : s.stack = a :: rest) (sound : operandFault f (0 : BitVec s.N) = none) :
    unaryStack f s = .next { s with stack := aluResult f a 0 :: rest } := by
  rw [unaryStack_eq, stackTop_of_cons cells]
  simp only [orRaise, alu_eq, sound, Option.elim_none, State.writeTop, cells, List.tail_cons]

end Forms

/-! ## The operators and their shapes (30_encoding.md R54, R57) -/

theorem decode_of_encode {i : Instr} {w : InstrWord} (wf : i.wellFormed = true) (word : encode i = w) :
    decode w = .ok i :=
  word ▸ decodeOfEncodeIsIdentity i wf

/-- The nine binary operators: opcode, ALU operation, and the instructions of form 0, 3, 1, 2 and 4. -/
inductive BinaryOperator : Opcode → AluOp → Instr → (Reg → Reg → Reg → Instr) → Instr → Instr → Instr → Prop where
  | add : BinaryOperator .add .add .addStack .addReg .addFm1 .addFm2 .addFm4
  | sub : BinaryOperator .sub .sub .subStack .subReg .subFm1 .subFm2 .subFm4
  | imul : BinaryOperator .imul .mul .imulStack .imulReg .imulFm1 .imulFm2 .imulFm4
  | idiv : BinaryOperator .idiv .div .idivStack .idivReg .idivFm1 .idivFm2 .idivFm4
  | and : BinaryOperator .and .and .andStack .andReg .andFm1 .andFm2 .andFm4
  | or : BinaryOperator .or .or .orStack .orReg .orFm1 .orFm2 .orFm4
  | xor : BinaryOperator .xor .xor .xorStack .xorReg .xorFm1 .xorFm2 .xorFm4
  | shl : BinaryOperator .shl .shl .shlStack .shlReg .shlFm1 .shlFm2 .shlFm4
  | shr : BinaryOperator .shr .shr .shrStack .shrReg .shrFm1 .shrFm2 .shrFm4

/-- `inc` and `dec`: opcode, ALU operation, what is added, and the instructions of form 0, 1, 2, 3 and 4. -/
inductive UnaryOperator : Opcode → AluOp → Int → Instr → (Reg → Instr) → Instr → Instr → Instr → Prop where
  | inc : UnaryOperator .inc .inc 1 .incStack .incReg .incFm2 .incFm3 .incFm4
  | dec : UnaryOperator .dec .dec (-1) .decStack .decReg .decFm2 .decFm3 .decFm4

section BinaryOperators

variable {o : Opcode} {f : AluOp} {stackForm oneForm twoForm fourForm : Instr} {regForm : Reg → Reg → Reg → Instr}

theorem BinaryOperator.words (operator : BinaryOperator o f stackForm regForm oneForm twoForm fourForm) :
    decode (encodeN o 0) = .ok stackForm ∧ decode (encodeN o 1) = .ok oneForm ∧ decode (encodeN o 2) = .ok twoForm ∧
      decode (encodeN o 4) = .ok fourForm ∧
      ∀ rs1 rs2 rd, decode (encodeR3 o 3 rs1 rs2 rd) = .ok (regForm rs1 rs2 rd) := by
  cases operator
  all_goals exact ⟨decode_of_encode rfl rfl, decode_of_encode rfl rfl, decode_of_encode rfl rfl, decode_of_encode rfl rfl,
    fun _ _ _ => decode_of_encode rfl rfl⟩

theorem BinaryOperator.handlers (operator : BinaryOperator o f stackForm regForm oneForm twoForm fourForm) :
    exec stackForm = binaryStack f ∧ (∀ rs1 rs2 rd, exec (regForm rs1 rs2 rd) = binaryReg f rs1 rs2 rd) ∧
      exec oneForm = raise .incompleteOperands ∧ exec twoForm = raise .incompleteOperands ∧
      exec fourForm = raise .arityError := by
  cases operator
  all_goals exact ⟨rfl, fun _ _ _ => rfl, rfl, rfl, rfl⟩

/-- The rule of every binary operator whose stated value is the result of the ALU. -/
theorem BinaryOperator.rule {value : (n : Nat) → BitVec n → BitVec n → BitVec n}
    (operator : BinaryOperator o f stackForm regForm oneForm twoForm fourForm)
    (result : ∀ n (a b : BitVec n), aluResult f a b = value n a b) :
    Binary o.toField stackForm regForm oneForm twoForm fourForm value fun _ => operandFault f := by
  obtain ⟨stackWord, oneWord, twoWord, fourWord, regWord⟩ := operator.words
  obtain ⟨stack, reg, one, two, four⟩ := operator.handlers
  refine ⟨⟨stackWord, oneWord, twoWord, fourWord, fun f1 f2 fd => ?_⟩, fun s => ⟨fun rs1 rs2 rd => ?_, fun low => ?_,
    fun a b rest cells => ?_, congrFun one s, congrFun two s, congrFun four s⟩⟩
  · have word := regWord (Reg.ofField f1) (Reg.ofField f2) (Reg.ofField fd)
    simp only [encodeR3, Reg.toField_ofField] at word
    exact word
  · rw [reg, ← result]
    exact ⟨fun _ => binaryReg_of_fault, binaryReg_of_sound⟩
  · rw [stack, binaryStack_of_depth low]
  · rw [stack, ← result]
    exact ⟨fun _ => binaryStack_of_fault cells, binaryStack_of_sound cells⟩

end BinaryOperators

section UnaryOperators

variable {o : Opcode} {f : AluOp} {delta : Int} {stackForm twoForm threeForm fourForm : Instr} {regForm : Reg → Instr}

theorem UnaryOperator.words (operator : UnaryOperator o f delta stackForm regForm twoForm threeForm fourForm) :
    decode (encodeN o 0) = .ok stackForm ∧ decode (encodeN o 2) = .ok twoForm ∧ decode (encodeN o 3) = .ok threeForm ∧
      decode (encodeN o 4) = .ok fourForm ∧ ∀ rs1, decode (encodeR1 o 1 rs1) = .ok (regForm rs1) := by
  cases operator
  all_goals exact ⟨decode_of_encode rfl rfl, decode_of_encode rfl rfl, decode_of_encode rfl rfl, decode_of_encode rfl rfl,
    fun _ => decode_of_encode rfl rfl⟩

theorem UnaryOperator.handlers (operator : UnaryOperator o f delta stackForm regForm twoForm threeForm fourForm) :
    exec stackForm = unaryStack f ∧ (∀ rs1, exec (regForm rs1) = unaryReg f rs1) ∧
      exec twoForm = raise .arityError ∧ exec threeForm = raise .arityError ∧ exec fourForm = raise .arityError := by
  cases operator
  all_goals exact ⟨rfl, fun _ => rfl, rfl, rfl, rfl⟩

theorem UnaryOperator.result (operator : UnaryOperator o f delta stackForm regForm twoForm threeForm fourForm) {n : Nat}
    (a : BitVec n) : operandFault f (0 : BitVec n) = none ∧ aluResult f a 0 = wrapN n (sval a + delta) := by
  cases operator
  all_goals exact ⟨rfl, rfl⟩

/-- The rule of `inc` and of `dec`. -/
theorem UnaryOperator.rule (operator : UnaryOperator o f delta stackForm regForm twoForm threeForm fourForm) :
    Unary o.toField stackForm regForm twoForm threeForm fourForm delta := by
  obtain ⟨stackWord, twoWord, threeWord, fourWord, regWord⟩ := operator.words
  obtain ⟨stack, reg, two, three, four⟩ := operator.handlers
  refine ⟨⟨stackWord, twoWord, threeWord, fourWord, fun f1 => ?_⟩, fun s => ⟨fun rs1 => ?_, fun empty => ?_,
    fun a rest cells => ?_, congrFun two s, congrFun three s, congrFun four s⟩⟩
  · have word := regWord (Reg.ofField f1)
    simp only [encodeR1, Reg.toField_ofField] at word
    exact word
  · obtain ⟨sound, value⟩ := operator.result (s.x.get rs1)
    rw [reg, unaryReg_of_sound sound, value]
  · rw [stack, unaryStack_of_nil empty]
  · obtain ⟨sound, value⟩ := operator.result a
    rw [stack, unaryStack_of_cons cells sound, value]

end UnaryOperators

/-! ## Quotients (42_arithmetic.md R86, R90, R95) -/

/-- The integer quotient of the ALU is the floor of the rational one, for every divisor. -/
theorem fdiv_eq_floor (a b : Int) : Int.fdiv a b = ⌊(a : ℚ) / b⌋ := by
  obtain ⟨d, rfl | rfl⟩ := b.eq_nat_or_neg
  · rw [Int.cast_natCast, Rat.floor_intCast_div_natCast, Int.fdiv_eq_ediv_of_nonneg a (Int.natCast_nonneg d)]
  · have quotient : (a : ℚ) / ((-d : Int) : ℚ) = ((-a : Int) : ℚ) / d := by push_cast; ring
    rw [quotient, Rat.floor_intCast_div_natCast, ← Int.fdiv_eq_ediv_of_nonneg (-a) (Int.natCast_nonneg d),
      ← Int.neg_fdiv_neg (-a), neg_neg]

/-- The remainder of the floor quotient has the sign of the divisor and is smaller in size. -/
theorem fdiv_remainder (a : Int) {b : Int} (nonzero : b ≠ 0) :
    ∃ rem, a = b * Int.fdiv a b + rem ∧ ((0 ≤ rem ∧ rem < b) ∨ (b < rem ∧ rem ≤ 0)) := by
  rcases lt_or_gt_of_ne nonzero with negative | positive
  · have positive : 0 < -b := neg_pos.mpr negative
    have division := Int.mul_fdiv_add_fmod (-a) (-b)
    have low := Int.fmod_nonneg_of_pos (-a) positive
    have high := Int.fmod_lt_of_pos (-a) positive
    rw [Int.neg_fdiv_neg, neg_mul] at division
    exact ⟨-(-a).fmod (-b), by omega, .inr ⟨by omega, by omega⟩⟩
  · exact ⟨a.fmod b, (Int.mul_fdiv_add_fmod a b).symm,
      .inl ⟨Int.fmod_nonneg_of_pos a positive, Int.fmod_lt_of_pos a positive⟩⟩

theorem fdiv_neg_one (a : Int) : Int.fdiv a (-1) = -a := by
  obtain ⟨rem, division, small⟩ := fdiv_remainder a (b := -1) (by decide)
  omega

/-- The floor quotient of two values of a range symmetric but for its least value stays in the range, except for the least
value divided by -1. -/
theorem fdiv_in_range {a b m : Int} (low : -m ≤ a) (high : a < m) (nonzero : b ≠ 0) (fits : ¬ (a = -m ∧ b = -1)) :
    -m ≤ Int.fdiv a b ∧ Int.fdiv a b < m := by
  obtain ⟨rem, division, small⟩ := fdiv_remainder a nonzero
  generalize Int.fdiv a b = q at division ⊢
  rcases small with ⟨atLeast, below⟩ | ⟨above, atMost⟩
  · constructor
    · by_contra! under
      have : b * (q + 1) ≤ 1 * (q + 1) := mul_le_mul_of_nonpos_right (by omega) (by omega)
      linarith
    · by_contra! beyond
      have : 1 * q ≤ b * q := mul_le_mul_of_nonneg_right (by omega) (by omega)
      linarith
  · by_cases unit : b = -1
    · subst unit
      omega
    · constructor
      · by_contra! under
        have : -1 * (q + 1) ≤ b * (q + 1) := mul_le_mul_of_nonpos_right (by omega) (by omega)
        linarith
      · by_contra! beyond
        have : b * q ≤ -2 * q := mul_le_mul_of_nonneg_right (by omega) (by omega)
        linarith

/-! ## Narrowing (00_scope.md R7; 42_arithmetic.md R85) -/

theorem uval_wrapN (n : Nat) (i : Int) : uval (wrapN n i) = i % 2 ^ n := by
  have nonnegative : 0 ≤ i % 2 ^ n := Int.emod_nonneg i (by positivity)
  rw [uval, BitVec.toNat_ofInt]
  push_cast
  exact Int.toNat_of_nonneg nonnegative

/-- A result in range is exact. At width 0 every value is 0, and so is the exact result of every operator. -/
theorem sval_wrapN {n : Nat} {i : Int} (zeroWidth : n = 0 → i = 0) (low : -(2 ^ (n - 1)) ≤ i) (high : i < 2 ^ (n - 1)) :
    sval (wrapN n i) = i := by
  rcases Nat.eq_zero_or_pos n with zero | positive
  · rw [zeroWidth zero, sval, BitVec.toInt_of_zero_length zero]
  · exact BitVec.toInt_ofInt_eq_self positive low high

/-- What a long shift leaves of a value: all ones or 0 by its sign (42_arithmetic.md R95). -/
theorem wrapN_sign (n : Nat) (negative : Prop) [Decidable negative] :
    wrapN n (if negative then -1 else 0) = if negative then BitVec.allOnes n else 0 := by
  split
  · exact BitVec.ofInt_neg.trans BitVec.neg_one_eq_allOnes
  · rfl

theorem width_pos_of_sval {n : Nat} {v : BitVec n} (nonzero : sval v ≠ 0) : 0 < n :=
  Nat.pos_of_ne_zero fun zero => nonzero (BitVec.toInt_of_zero_length zero v)

/-- The one quotient that does not fit wraps to the dividend (42_arithmetic.md R86). -/
theorem wrapN_neg_least {n : Nat} {a : BitVec n} (least : sval a = -(2 ^ (n - 1))) : wrapN n (-sval a) = a := by
  have positive : 0 < n := width_pos_of_sval (v := a) (by rw [least]; exact neg_ne_zero.mpr (by positivity))
  have isMin : a = BitVec.intMin n := by
    rw [← BitVec.toInt_inj, BitVec.toInt_intMin_of_pos positive]
    exact least
  rw [wrapN, BitVec.ofInt_neg, BitVec.ofInt_toInt, isMin, BitVec.neg_intMin]

/-! ## The statements -/

/-- Settles O16: the stated sum is the ALU's. -/
theorem addFollowsItsRule : Obligations.AddFollowsItsRule := BinaryOperator.add.rule fun _ _ _ => rfl

/-- Settles O17: the stated difference is the ALU's. -/
theorem subFollowsItsRule : Obligations.SubFollowsItsRule := BinaryOperator.sub.rule fun _ _ _ => rfl

/-- Settles O18: the stated product is the ALU's. -/
theorem imulFollowsItsRule : Obligations.ImulFollowsItsRule := BinaryOperator.imul.rule fun _ _ _ => rfl

/-- Settles O19: the ALU's quotient is the rational floor. -/
theorem idivFollowsItsRule : Obligations.IdivFollowsItsRule :=
  BinaryOperator.idiv.rule fun n a b => congrArg (wrapN n) (fdiv_eq_floor (sval a) (sval b))

/-- Settles O20: the stated conjunction is the ALU's. -/
theorem andFollowsItsRule : Obligations.AndFollowsItsRule := BinaryOperator.and.rule fun _ _ _ => rfl

/-- Settles O21: the stated disjunction is the ALU's. -/
theorem orFollowsItsRule : Obligations.OrFollowsItsRule := BinaryOperator.or.rule fun _ _ _ => rfl

/-- Settles O22: the stated exclusive disjunction is the ALU's. -/
theorem xorFollowsItsRule : Obligations.XorFollowsItsRule := BinaryOperator.xor.rule fun _ _ _ => rfl

/-- Settles O23: cutting the amount at the width changes no product. -/
theorem shlFollowsItsRule : Obligations.ShlFollowsItsRule := BinaryOperator.shl.rule fun _ => aluResult_shl

/-- Settles O24: cutting the amount at the width changes no quotient, and the quotient is the rational floor. -/
theorem shrFollowsItsRule : Obligations.ShrFollowsItsRule :=
  BinaryOperator.shr.rule fun n a b => by
    rw [aluResult_shr, fdiv_eq_floor, Int.cast_pow, Int.cast_ofNat]

/-- Settles O25: 1 is added. -/
theorem incFollowsItsRule : Obligations.IncFollowsItsRule := UnaryOperator.inc.rule

/-- Settles O26: -1 is added. -/
theorem decFollowsItsRule : Obligations.DecFollowsItsRule := UnaryOperator.dec.rule

/-- Settles O33: the three results are narrowed exact integers, which at width 0 are 0. -/
theorem arithmeticWrapsModuloTwoToTheN : Obligations.ArithmeticWrapsModuloTwoToTheN := by
  intro s a b rest cells p listed
  have zeros (zero : s.N = 0) : sval a = 0 ∧ sval b = 0 :=
    ⟨BitVec.toInt_of_zero_length zero a, BitVec.toInt_of_zero_length zero b⟩
  obtain ⟨answers, zeroWidth⟩ :
      exec p.1 s = .next { s with stack := wrapN s.N p.2 :: rest } ∧ (s.N = 0 → p.2 = 0) := by
    simp only [List.mem_cons, List.not_mem_nil, or_false] at listed
    rcases listed with rfl | rfl | rfl
    · exact ⟨binaryStack_of_sound (f := .add) cells rfl, fun zero => by simp [zeros zero]⟩
    · exact ⟨binaryStack_of_sound (f := .sub) cells rfl, fun zero => by simp [zeros zero]⟩
    · exact ⟨binaryStack_of_sound (f := .mul) cells rfl, fun zero => by simp [zeros zero]⟩
  exact ⟨_, answers, uval_wrapN _ _, sval_wrapN zeroWidth⟩

/-- Settles O34: the floor quotient is in range but for the one overflow, so its remainder is that of `q`. -/
theorem idivRoundsTowardMinusInfinity : Obligations.IdivRoundsTowardMinusInfinity := by
  intro s a b rest cells nonzero
  refine ⟨_, binaryStack_of_sound (f := .div) cells (if_neg nonzero), fun ⟨least, unit⟩ => ?_, fun fits => ?_⟩
  · rw [aluResult, unit, fdiv_neg_one, wrapN_neg_least least]
  · obtain ⟨low, high⟩ := fdiv_in_range (BitVec.le_toInt a) BitVec.toInt_lt nonzero fits
    rw [aluResult, sval_wrapN (fun zero => absurd zero (width_pos_of_sval nonzero).ne') low high]
    exact fdiv_remainder (sval a) nonzero

/-- Settles O35: a power of two at or above the width leaves 0 of a product and the sign of a quotient; the power 1 leaves the
value. -/
theorem longShiftsLeaveOnlyTheSign : Obligations.LongShiftsLeaveOnlyTheSign := by
  intro s a b rest cells
  have shifts (nonnegative : 0 ≤ sval b) :
      exec .shlStack s = .next { s with stack := wrapN s.N (sval a * 2 ^ (sval b).toNat) :: rest } ∧
      exec .shrStack s = .next { s with stack := wrapN s.N (Int.fdiv (sval a) (2 ^ (sval b).toNat)) :: rest } := by
    rw [← aluResult_shl, ← aluResult_shr]
    exact ⟨binaryStack_of_sound (f := .shl) cells (if_neg nonnegative.not_gt),
      binaryStack_of_sound (f := .shr) cells (if_neg nonnegative.not_gt)⟩
  refine ⟨fun long => ?_, fun zero => ?_⟩
  · obtain ⟨left, right⟩ := shifts ((Int.natCast_nonneg s.N).trans long)
    have beyond : s.N ≤ (sval b).toNat := by omega
    rw [left, right, wrapN_mul_two_pow _ beyond, fdiv_two_pow_sign a beyond, wrapN_sign]
    exact ⟨rfl, rfl⟩
  · obtain ⟨left, right⟩ := shifts zero.ge
    rw [zero, Int.toNat_zero, pow_zero] at left right
    rw [left, right, mul_one, Int.fdiv_one, wrapN, BitVec.ofInt_toInt]
    exact ⟨rfl, rfl⟩

end Sys2Proof.Machine

/-! The comparison (spec/43_compare.md R99, R100): what both forms of `cmp` answer, told by the flag latch, and the flags that the
latch takes when the first value equals, exceeds or is below the second. -/

namespace Sys2Proof.Machine

open Sys2Proof.Stated

/-! ## The flag latch (10_state.md R31) -/

theorem latchFlags_eq (s : State) (a b : BitVec s.N) :
    s.latchFlags a b = { s with Z := decide (a = b), P := decide (sval a > sval b) } := rfl

section Outcomes

variable (s : State) {a b : BitVec s.N}

/-- The latch compares patterns for `Z` and signed values for `P`; equal signed values are equal patterns, so `Z` is decided by the
signed values too. -/
theorem latchFlags_Z_signed : (s.latchFlags a b).Z = decide (sval a = sval b) :=
  decide_eq_decide.mpr BitVec.toInt_inj.symm

theorem latchFlags_of_eq (equal : sval a = sval b) : (s.latchFlags a b).Z = true ∧ (s.latchFlags a b).P = false := by
  rw [latchFlags_Z_signed, State.latchFlags_P]
  exact ⟨decide_eq_true equal, decide_eq_false equal.not_gt⟩

theorem latchFlags_of_gt (greater : sval a > sval b) : (s.latchFlags a b).Z = false ∧ (s.latchFlags a b).P = true := by
  rw [latchFlags_Z_signed, State.latchFlags_P]
  exact ⟨decide_eq_false greater.ne', decide_eq_true greater⟩

theorem latchFlags_of_lt (less : sval a < sval b) : (s.latchFlags a b).Z = false ∧ (s.latchFlags a b).P = false := by
  rw [latchFlags_Z_signed, State.latchFlags_P]
  exact ⟨decide_eq_false less.ne, decide_eq_false less.not_gt⟩

end Outcomes

/-! ## The two forms (43_compare.md R99) -/

theorem execCmpReg_eq (rs1 rs2 : Reg) (s : State) :
    execCmpReg rs1 rs2 s = .next (s.latchFlags (s.x.get rs1) (s.x.get rs2)) := rfl

theorem execCmpStack_of_depth {s : State} (low : s.depth < 2) : execCmpStack s = faulted s .stackUnderflow := by
  rw [execCmpStack_eq, stackPair_of_depth low]
  rfl

theorem execCmpStack_of_cells {s : State} {a b : BitVec s.N} {rest : List (BitVec s.N)} (cells : s.stack = b :: a :: rest) :
    execCmpStack s = .next (s.latchFlags a b) := by
  rw [execCmpStack_eq, stackPair_of_cells cells]
  rfl

/-! ## The statements -/

/-- Settles O27: the words are the encodings of the shapes; the effects are those of the flag latch and of the depth check. -/
theorem cmpFollowsItsRule : Obligations.CmpFollowsItsRule := by
  have decodes := decodeOfEncodeIsIdentity
  refine ⟨⟨decodes .cmpStack rfl, decodes .cmpFm1 rfl, decodes .cmpFm3 rfl, decodes .cmpFm4 rfl, fun f1 f2 => ?_⟩,
    fun s => ⟨fun rs1 rs2 => ?_, execCmpStack_of_depth, fun a b rest cells => ?_, rfl, rfl, rfl⟩⟩
  · have word := decodes (.cmpReg (Reg.ofField f1) (Reg.ofField f2)) rfl
    simp only [encode, encodeR2, Reg.toField_ofField] at word
    exact word
  · rw [← latchFlags_eq]
    exact execCmpReg_eq rs1 rs2 s
  · rw [← latchFlags_eq]
    exact execCmpStack_of_cells cells

/-- Settles O32: both forms answer the state with the flags latched, whatever the relation of the two values. -/
theorem compareOutcomeTable : Obligations.CompareOutcomeTable := fun s =>
  ⟨fun rs1 rs2 => ⟨_, execCmpReg_eq rs1 rs2 s, latchFlags_of_eq s, latchFlags_of_gt s, latchFlags_of_lt s⟩,
    fun _ _ _ cells => ⟨_, execCmpStack_of_cells cells, latchFlags_of_eq s, latchFlags_of_gt s, latchFlags_of_lt s⟩⟩

end Sys2Proof.Machine

/-! The jumps (spec/44_jumps.md R101 to R109): what the literal and the stack form answer, told by the branch condition and the
bounds check, and where a step that runs one lands (spec/40_sequencer.md R74). -/

namespace Sys2Proof.Machine

open Sys2Proof.Stated

/-! ## The branch control unit (44_jumps.md R103 to R105) -/

section Forms

variable {c : Bool} {s : State} {d : BitVec s.N} {rest : List (BitVec s.N)}

/-- The handler PC of a taken literal jump: the 16-bit difference is the exact one modulo `2^16`. -/
theorem line_sub_two (target : Index) : target - 2 = BitVec.ofInt 16 (uval target - 2) := by
  rw [Int.sub_eq_add_neg, BitVec.ofInt_add, BitVec.ofInt_natCast, BitVec.ofNat_toNat, BitVec.setWidth_eq]
  exact BitVec.sub_eq_add_neg target 2

theorem jumpLiteral_ofInt (target : Index) : jumpLiteral c target s =
    .next { s with pc := if c then BitVec.ofInt 16 (uval target - 2) else s.pc } := by
  rw [jumpLiteral_eq, line_sub_two]

theorem jumpOutOfBounds_iff :
    jumpOutOfBounds s d = true ↔ uval s.pc + sval d < 0 ∨ uval s.pc + sval d ≥ uval s.PLEN := by
  rw [jumpOutOfBounds, Bool.or_eq_true, decide_eq_true_iff, decide_eq_true_iff]
  rfl

theorem jumpStack_of_nil (empty : s.stack = []) : jumpStack c s = faulted s .stackUnderflow := by
  rw [jumpStack_eq, stackTop_of_nil empty]
  rfl

theorem jumpStack_of_outside (cells : s.stack = d :: rest)
    (outside : uval s.pc + sval d < 0 ∨ uval s.pc + sval d ≥ uval s.PLEN) :
    jumpStack c s = faulted s .jumpOutOfBounds := by
  rw [jumpStack_eq, stackTop_of_cons cells]
  exact if_pos (jumpOutOfBounds_iff.mpr outside)

theorem jumpStack_of_inside (cells : s.stack = d :: rest) (low : 0 ≤ uval s.pc + sval d)
    (high : uval s.pc + sval d < uval s.PLEN) : jumpStack c s =
      .next { s with stack := rest, pc := if c then BitVec.ofInt 16 (uval s.pc + sval d) else s.pc } := by
  have inside : ¬ jumpOutOfBounds s d = true := fun outside => by
    rcases jumpOutOfBounds_iff.mp outside with below | beyond
    · exact below.not_ge low
    · exact beyond.not_gt high
  rw [jumpStack_eq, stackTop_of_cons cells, orRaise, if_neg inside]
  cases c
  all_goals simp only [State.popCell, State.withPc, cells, List.tail_cons, if_true, Bool.false_eq_true, if_false, jumpSum]

end Forms

/-! ## The three jumps and their shapes (30_encoding.md R54, R57; 44_jumps.md R102) -/

/-- `je`, `jma` and `jne`: opcode, branch condition, and the instructions of form 0, 1, 2, 3, 4 and 5. -/
inductive JumpOperator :
    Opcode → (State → Bool) → Instr → (Index → Instr) → Instr → Instr → Instr → Instr → Prop where
  | je : JumpOperator .je condJe .jeStack .jeLit .jeFm2 .jeFm3 .jeFm4 .jeFm5
  | jma : JumpOperator .jma condJma .jmaStack .jmaLit .jmaFm2 .jmaFm3 .jmaFm4 .jmaFm5
  | jne : JumpOperator .jne condJne .jneStack .jneLit .jneFm2 .jneFm3 .jneFm4 .jneFm5

section JumpOperators

variable {o : Opcode} {cond : State → Bool} {stackForm twoForm threeForm fourForm badForm : Instr} {litForm : Index → Instr}

theorem JumpOperator.words (jump : JumpOperator o cond stackForm litForm twoForm threeForm fourForm badForm) :
    decode (encodeN o 0) = .ok stackForm ∧ decode (encodeN o 2) = .ok twoForm ∧ decode (encodeN o 3) = .ok threeForm ∧
      decode (encodeN o 4) = .ok fourForm ∧ decode (encodeN o 5) = .ok badForm ∧
      ∀ target ≠ 0, decode (encodeI o 1 target) = .ok (litForm target) := by
  cases jump
  all_goals exact ⟨decode_of_encode rfl rfl, decode_of_encode rfl rfl, decode_of_encode rfl rfl, decode_of_encode rfl rfl,
    decode_of_encode rfl rfl, fun _ line => decode_of_encode (bne_iff_ne.mpr line) rfl⟩

/-- Source lines are counted from 1: the literal form with line 0 is no instruction (30_encoding.md R59). -/
theorem JumpOperator.lineZero (jump : JumpOperator o cond stackForm litForm twoForm threeForm fourForm badForm) :
    decode (encodeI o 1 0) = .error .zeroTarget := by
  cases jump
  all_goals rfl

theorem JumpOperator.handlers (jump : JumpOperator o cond stackForm litForm twoForm threeForm fourForm badForm)
    (s : State) :
    exec stackForm s = jumpStack (cond s) s ∧ (∀ target, exec (litForm target) s = jumpLiteral (cond s) target s) ∧
      exec twoForm s = faulted s .arityError ∧ exec threeForm s = faulted s .arityError ∧
      exec fourForm s = faulted s .arityError ∧ exec badForm s = faulted s .invalidOperand := by
  cases jump
  all_goals exact ⟨rfl, fun _ => rfl, rfl, rfl, rfl, rfl⟩

/-- The rule of every jump, with its own branch condition. -/
theorem JumpOperator.rule (jump : JumpOperator o cond stackForm litForm twoForm threeForm fourForm badForm) :
    Jump o.toField stackForm litForm twoForm threeForm fourForm badForm cond := by
  obtain ⟨stackWord, twoWord, threeWord, fourWord, badWord, litWord⟩ := jump.words
  refine ⟨⟨stackWord, twoWord, threeWord, fourWord, badWord, litWord, jump.lineZero⟩, fun s => ?_⟩
  obtain ⟨stack, lit, faults⟩ := jump.handlers s
  refine ⟨fun target => ?_, fun empty => ?_, fun offset rest cells => ?_, faults⟩
  · rw [lit, jumpLiteral_ofInt]
  · rw [stack, jumpStack_of_nil empty]
  · rw [stack]
    exact ⟨jumpStack_of_outside cells, jumpStack_of_inside cells⟩

end JumpOperators

/-! ## Jumps by their branch condition (44_jumps.md R102) -/

section Conditions

variable {i : Instr} {s : State} {target : Index}

theorem exec_of_takenLiteral (taken : takenLiteral i target s) : exec i s = jumpLiteral true target s := by
  rcases taken with ⟨rfl, z⟩ | ⟨rfl, z⟩ | ⟨rfl, z⟩
  · exact congrArg (jumpLiteral · target s) z
  · exact congrArg (fun zero => jumpLiteral (!zero) target s) z
  · exact congrArg (fun zero => jumpLiteral (!zero) target s) z

theorem exec_of_untakenLiteral (untaken : untakenLiteral i target s) : exec i s = jumpLiteral false target s := by
  rcases untaken with ⟨rfl, z⟩ | ⟨rfl, z⟩ | ⟨rfl, z⟩
  · exact congrArg (jumpLiteral · target s) z
  · exact congrArg (fun zero => jumpLiteral (!zero) target s) z
  · exact congrArg (fun zero => jumpLiteral (!zero) target s) z

/-- A stack-form jump runs `JumpStack` with a condition that holds just when the jump is taken. -/
theorem exec_of_jumpStackForm (form : i ∈ jumpStackForms) (s : State) :
    ∃ c, exec i s = jumpStack c s ∧ (takenStack i s ↔ c = true) := by
  simp only [jumpStackForms, List.mem_cons, List.not_mem_nil, or_false] at form
  rcases form with rfl | rfl | rfl
  · exact ⟨condJe s, rfl, by simp [takenStack, condJe]⟩
  · exact ⟨condJma s, rfl, by simp [takenStack, condJma]⟩
  · exact ⟨condJne s, rfl, by simp [takenStack, condJne]⟩

end Conditions

/-! ## Where a jump's step lands (40_sequencer.md R74) -/

/-- A step whose handler leaves STATUS alone ends with the increment of the handler PC. -/
theorem step_of_aboutToRun {s t : State} {i : Instr} (run : aboutToRun s i) (answers : exec i s = .next t)
    (kept : t.STATUS = s.STATUS) : step s = .next { t with pc := t.pc + 1 } := by
  obtain ⟨running, inside, word⟩ := run
  have sound : t.STATUS.isFaulted = false := by rw [kept, running]; rfl
  rw [step_of_exec running inside word answers, postStep_advance sound]

/-- The handler PC of a literal jump, incremented, is the index of its line, `toNat_line` as a pattern. -/
theorem line_index {target : Index} (line : target ≠ 0) : target - 2 + 1 = BitVec.ofNat 16 (target.toNat - 1) := by
  rw [← toNat_line line, BitVec.ofNat_toNat, BitVec.setWidth_eq]

/-- An index below `PLEN` is not the last of all, so the increment does not wrap. -/
theorem uval_succ {pc len : Index} (below : pc.toNat < len.toNat) : uval (pc + 1) = uval pc + 1 := by
  simp only [uval]
  bv_omega

/-- A sum in bounds is an index as it stands. -/
theorem uval_ofInt_of_inside {j : Int} {len : Index} (low : 0 ≤ j) (high : j < uval len) : uval (BitVec.ofInt 16 j) = j := by
  have := len.isLt
  rw [uval, BitVec.toNat_ofInt]
  simp only [uval] at high
  omega

/-! ## The statements -/

/-- Settles O28: the branch condition of `je` is `Z`. -/
theorem jeFollowsItsRule : Obligations.JeFollowsItsRule := JumpOperator.je.rule

/-- Settles O29: the branch condition of `jma` is that `Z` is clear. -/
theorem jmaFollowsItsRule : Obligations.JmaFollowsItsRule := JumpOperator.jma.rule

/-- Settles O30: the branch condition of `jne` is that `Z` is clear. -/
theorem jneFollowsItsRule : Obligations.JneFollowsItsRule := JumpOperator.jne.rule

/-- Settles O37: the increment takes the handler PC to the line's index, for a literal that was decoded is no line 0; the halt
test is the only check that index meets. -/
theorem literalJumpLandsOnItsLine : Obligations.LiteralJumpLandsOnItsLine := by
  refine ⟨fun s i target taken => ?_, fun s i target run taken => ?_, fun s i target run untaken => ?_⟩
  · rw [exec_of_takenLiteral taken, jumpLiteral_ofInt, if_pos rfl]
  · have ⟨running, _, word⟩ := run
    obtain ⟨wf, -⟩ := encodeOfDecodeIsIdentity _ i word
    have line : target ≠ 0 := target_ne_zero wf taken
    rw [← line_index line]
    refine ⟨step_of_aboutToRun run (exec_of_takenLiteral taken) rfl, fun beyond => ?_⟩
    exact step_halts running (State.atEnd_of_le (beyond.trans_eq (toNat_line line).symm))
  · have answers : exec i s = .next s := exec_of_untakenLiteral untaken
    exact ⟨answers, step_of_aboutToRun run answers rfl⟩

/-- Settles O38: the handler PC is the sum or `pc`, both below `PLEN`, so the increment does not wrap. -/
theorem stackJumpLandsPastItsOffset : Obligations.StackJumpLandsPastItsOffset := by
  intro s i d rest run form cells low high
  obtain ⟨c, runs, taken⟩ := exec_of_jumpStackForm form s
  refine ⟨_, step_of_aboutToRun run (runs.trans (jumpStack_of_inside cells low high)) rfl, fun holds => ?_, fun fails => ?_⟩
  · rw [if_pos (taken.mp holds), uval_succ (toNat_ofInt_lt low high), uval_ofInt_of_inside low high]
  · obtain ⟨-, inside, -⟩ := run
    rw [if_neg (mt taken.mpr fails), uval_succ inside]

/-- The point that R109 flags: two conditions of the spec, one function of `Z`. -/
theorem condJma_eq_condJne (s : State) : condJma s = condJne s := rfl

/-- Settles O39: both jumps run the same operation on conditions that agree, and their other shapes raise the same faults. -/
theorem jmaAndJneBehaveAlike : Obligations.JmaAndJneBehaveAlike := by
  refine ⟨⟨opField_assemble 0 .jma 0, opField_assemble 0 .jne 0⟩, fun s => ?_⟩
  obtain ⟨stackA, litA, twoA, threeA, fourA, badA⟩ := JumpOperator.jma.handlers s
  obtain ⟨stackE, litE, twoE, threeE, fourE, badE⟩ := JumpOperator.jne.handlers s
  refine ⟨?_, fun target => ?_, twoA.trans twoE.symm, threeA.trans threeE.symm, fourA.trans fourE.symm, badA.trans badE.symm⟩
  · rw [stackA, stackE, condJma_eq_condJne]
  · rw [litA, litE, condJma_eq_condJne]

end Sys2Proof.Machine

/-! The no-operation (spec/45_skip.md R110): the handler of `skip` answers the state it was given, so a step that runs it does no
more than the post-step increment (spec/40_sequencer.md R74). -/

namespace Sys2Proof.Machine

open Sys2Proof.Stated

/-- The handler of R110 reads no state and checks no depth. -/
theorem exec_skip (s : State) : exec .skip s = .next s := rfl

/-- Operands are what `skip` has none of: any number of them is too many (40_sequencer.md R72). -/
theorem exec_skip_withOperands (s : State) :
    exec .skipFm1 s = faulted s .arityError ∧ exec .skipFm2 s = faulted s .arityError ∧
      exec .skipFm3 s = faulted s .arityError ∧ exec .skipFm4 s = faulted s .arityError :=
  ⟨rfl, rfl, rfl, rfl⟩

/-- Settles O31: the words are the encodings of the shapes; the handler leaves STATUS alone, so the step ends with the increment
of the `pc` it was given. -/
theorem skipFollowsItsRule : Obligations.SkipFollowsItsRule := by
  have decodes := decodeOfEncodeIsIdentity
  refine ⟨⟨decodes .skip rfl, decodes .skipFm1 rfl, decodes .skipFm2 rfl, decodes .skipFm3 rfl, decodes .skipFm4 rfl⟩,
    fun s => ⟨exec_skip s, exec_skip_withOperands s⟩, fun s run => ?_⟩
  exact step_of_aboutToRun run (exec_skip s) rfl

end Sys2Proof.Machine

/-! Faults (spec/60_exceptions.md R111 to R115): a fault changes STATUS alone (R113), and each cause is raised only by the
instructions that R112 lists for it, after the checks that R114 puts before it. -/

namespace Sys2Proof.Machine

open Sys2Proof.Stated

/-! ## A fault changes STATUS alone (60_exceptions.md R113) -/

/-- A state that is not FAULTED has no cause. -/
theorem State.status_ne_faulted {s : State} (sound : s.STATUS.isFaulted = false) (c : FaultCause) :
    s.STATUS ≠ .faulted c := by
  intro fault
  rw [fault] at sound
  cases sound

/-- The cause that a fault leaves in STATUS is the one that was raised. -/
theorem eq_faulted_of_status {s t : State} {c d : FaultCause} (raised : t = { s with STATUS := .faulted d })
    (fault : t.STATUS = .faulted c) : t = { s with STATUS := .faulted c } := by
  subst raised
  cases fault
  rfl

/-- An instruction that ends FAULTED did not commit, since a commit keeps STATUS. -/
theorem exec_fault {i : Instr} {s t : State} {c : FaultCause} (sound : s.STATUS.isFaulted = false)
    (h : exec i s = .next t) (fault : t.STATUS = .faulted c) : t = { s with STATUS := .faulted c } := by
  rcases exec_cases h with ⟨d, raised⟩ | commits
  · exact eq_faulted_of_status raised fault
  · exact absurd (commits.status.symm.trans fault) (State.status_ne_faulted sound c)

/-- A step that ends FAULTED neither halted nor committed. -/
theorem step_fault {s t : State} {c : FaultCause} (running : s.STATUS = .running) (h : step s = .next t)
    (fault : t.STATUS = .faulted c) : t = { s with STATUS := .faulted c } := by
  rcases everyStepHaltsFaultsOrExecutes s running with ⟨-, halts⟩ | ⟨-, d, raises⟩ | ⟨-, i, u, -, -, kept, executes⟩
  · cases next_inj (halts.symm.trans h)
    cases fault
  · exact eq_faulted_of_status (next_inj (h.symm.trans raises)) fault
  · cases next_inj (executes.symm.trans h)
    cases kept.symm.trans fault

/-- Host `Execute` raises what the decoder or the instruction raises (40_sequencer.md R80). -/
theorem executeWord_fault {w : InstrWord} {s t : State} {c : FaultCause} (sound : s.STATUS.isFaulted = false)
    (h : executeWord w s = .next t) (fault : t.STATUS = .faulted c) : t = { s with STATUS := .faulted c } := by
  cases word : decode w with
  | error e => exact eq_faulted_of_status (next_inj (h.symm.trans (executeWord_illegal word s))) fault
  | ok i => exact exec_fault sound ((executeWord_legal word s).symm.trans h) fault

/-! ## The table of causes (60_exceptions.md R112, R114) -/

/-- The table of R112 with the order of R114: the instruction `i` may raise the cause `c` in the state `s`. No row has the cause
ILLEGAL_INSTRUCTION, which is a word's and not an instruction's (30_encoding.md R59). -/
inductive ListedFault : Instr → State → FaultCause → Prop where
  | badlit {i : Instr} {s : State} (shape : i ∈ badlitShapes) : ListedFault i s .invalidOperand
  | incomplete {i : Instr} {s : State} (shape : i ∈ incompleteShapes) : ListedFault i s .incompleteOperands
  | arity {i : Instr} {s : State} (shape : i ∈ arityShapes) : ListedFault i s .arityError
  | noCell {i : Instr} {s : State} (form : i ∈ [.pop, .incStack, .decStack, .jeStack, .jmaStack, .jneStack])
      (empty : s.depth = 0) : ListedFault i s .stackUnderflow
  | noPair {i : Instr} {s : State} (form : i ∈ binaryStackForms ∨ i = .cmpStack) (low : s.depth < 2) :
      ListedFault i s .stackUnderflow
  | pushReg {s : State} (full : s.depth = s.SDEPTH) : ListedFault .pushReg s .stackOverflow
  | pushLit {s : State} (imm : Index) (full : s.depth = s.SDEPTH) : ListedFault (.pushLit imm) s .stackOverflow
  | idivStack {s : State} (pair : 2 ≤ s.depth) : ListedFault .idivStack s .divisionByZero
  | idivReg {s : State} (rs1 rs2 rd : Reg) (zero : s.x.get rs2 = 0) : ListedFault (.idivReg rs1 rs2 rd) s .divisionByZero
  | jump {i : Instr} {s : State} (form : i ∈ jumpStackForms) (cell : 1 ≤ s.depth) : ListedFault i s .jumpOutOfBounds
  | shiftStack {i : Instr} {s : State} (form : i = .shlStack ∨ i = .shrStack) (pair : 2 ≤ s.depth) :
      ListedFault i s .negativeShift
  | shiftReg {i : Instr} {s : State} (rs1 rs2 rd : Reg) (form : i = .shlReg rs1 rs2 rd ∨ i = .shrReg rs1 rs2 rd)
      (negative : sval (s.x.get rs2) < 0) : ListedFault i s .negativeShift

/-- Everything that makes the ALU raise a fault (42_arithmetic.md R90, R94, R95). -/
theorem alu_error {n : Nat} {f : AluOp} {a b : BitVec n} {c : FaultCause} (e : alu f a b = .error c) :
    (f = .div ∧ b = 0 ∧ c = .divisionByZero) ∨ ((f = .shl ∨ f = .shr) ∧ sval b < 0 ∧ c = .negativeShift) := by
  rcases alu_cases f a b with ⟨div, zero, raises⟩ | ⟨shift, negative, raises⟩ | ⟨-, -, answers⟩
  · cases raises.symm.trans e
    exact .inl ⟨div, zero, rfl⟩
  · cases raises.symm.trans e
    exact .inr ⟨shift, negative, rfl⟩
  · cases answers.symm.trans e

theorem State.depth_of_nil {s : State} (empty : s.stack = []) : s.depth = 0 := congrArg List.length empty

theorem State.depth_of_cons {s : State} {a : BitVec s.N} {rest : List (BitVec s.N)} (cells : s.stack = a :: rest) :
    1 ≤ s.depth := by
  simp [State.depth, cells]

theorem State.depth_of_pair {s : State} {a b : BitVec s.N} {rest : List (BitVec s.N)} (cells : s.stack = b :: a :: rest) :
    2 ≤ s.depth := by
  simp [State.depth, cells]

/-! ## The faults of the operators -/

section Operators

variable {o : Opcode} {f : AluOp} {s t : State} {c : FaultCause}

/-- The only operators with an operand-value fault are `idiv`, `shl` and `shr`, after the depth check. -/
theorem BinaryOperator.stack_fault {stackForm oneForm twoForm fourForm : Instr} {regForm : Reg → Reg → Reg → Instr}
    (operator : BinaryOperator o f stackForm regForm oneForm twoForm fourForm) (sound : s.STATUS.isFaulted = false)
    (h : exec stackForm s = .next t) (fault : t.STATUS = .faulted c) : ListedFault stackForm s c := by
  obtain ⟨stack, -⟩ := operator.handlers
  rw [stack] at h
  rcases binaryStack_cases h with ⟨low, rfl⟩ | ⟨b, a, rest, d, cells, e, rfl⟩ | ⟨b, a, rest, r, -, -, rfl⟩
  · cases fault
    have form : stackForm ∈ binaryStackForms := by
      cases operator
      all_goals decide
    exact .noPair (.inl form) low
  · cases fault
    rcases alu_error e with ⟨rfl, -, rfl⟩ | ⟨rfl | rfl, -, rfl⟩
    all_goals cases operator
    · exact .idivStack (State.depth_of_pair cells)
    · exact .shiftStack (.inl rfl) (State.depth_of_pair cells)
    · exact .shiftStack (.inr rfl) (State.depth_of_pair cells)
  · exact absurd fault (State.status_ne_faulted sound c)

theorem BinaryOperator.reg_fault {stackForm oneForm twoForm fourForm : Instr} {regForm : Reg → Reg → Reg → Instr}
    {rs1 rs2 rd : Reg} (operator : BinaryOperator o f stackForm regForm oneForm twoForm fourForm)
    (sound : s.STATUS.isFaulted = false) (h : exec (regForm rs1 rs2 rd) s = .next t) (fault : t.STATUS = .faulted c) :
    ListedFault (regForm rs1 rs2 rd) s c := by
  obtain ⟨-, reg, -⟩ := operator.handlers
  rw [reg] at h
  rcases binaryReg_cases h with ⟨d, e, rfl⟩ | ⟨r, -, rfl⟩
  · cases fault
    rcases alu_error e with ⟨rfl, zero, rfl⟩ | ⟨rfl | rfl, negative, rfl⟩
    all_goals cases operator
    · exact .idivReg rs1 rs2 rd zero
    · exact .shiftReg rs1 rs2 rd (.inl rfl) negative
    · exact .shiftReg rs1 rs2 rd (.inr rfl) negative
  · exact absurd fault (State.status_ne_faulted sound c)

section Unary

variable {delta : Int} {stackForm twoForm threeForm fourForm : Instr} {regForm : Reg → Instr}

/-- `inc` and `dec` have no operand-value fault. -/
theorem UnaryOperator.alu_ne_error (operator : UnaryOperator o f delta stackForm regForm twoForm threeForm fourForm)
    {n : Nat} (a b : BitVec n) : alu f a b ≠ .error c := by
  intro e
  rcases alu_error e with ⟨rfl, -⟩ | ⟨rfl | rfl, -⟩
  all_goals cases operator

theorem UnaryOperator.stack_fault (operator : UnaryOperator o f delta stackForm regForm twoForm threeForm fourForm)
    (sound : s.STATUS.isFaulted = false) (h : exec stackForm s = .next t) (fault : t.STATUS = .faulted c) :
    ListedFault stackForm s c := by
  obtain ⟨stack, -⟩ := operator.handlers
  rw [stack] at h
  rcases unaryStack_cases h with ⟨empty, rfl⟩ | ⟨a, rest, d, -, e, -⟩ | ⟨a, rest, r, -, -, rfl⟩
  · cases fault
    have form : stackForm ∈ [.pop, .incStack, .decStack, .jeStack, .jmaStack, .jneStack] := by
      cases operator
      all_goals decide
    exact .noCell form (State.depth_of_nil empty)
  · exact absurd e (operator.alu_ne_error a 0)
  · exact absurd fault (State.status_ne_faulted sound c)

theorem UnaryOperator.reg_status (operator : UnaryOperator o f delta stackForm regForm twoForm threeForm fourForm)
    {rs1 : Reg} (h : exec (regForm rs1) s = .next t) : t.STATUS = s.STATUS := by
  obtain ⟨-, reg, -⟩ := operator.handlers
  rw [reg] at h
  rcases unaryReg_cases h with ⟨d, e, -⟩ | ⟨r, -, rfl⟩
  · exact absurd e (operator.alu_ne_error _ 0)
  · rfl

end Unary

/-! ## The faults of the jumps, `push`, `pop` and `cmp` -/

/-- The depth check of a stack-form jump comes before its bounds check. -/
theorem jumpStackForm_fault {i : Instr} (form : i ∈ jumpStackForms) (sound : s.STATUS.isFaulted = false)
    (h : exec i s = .next t) (fault : t.STATUS = .faulted c) : ListedFault i s c := by
  obtain ⟨taken, jump, -⟩ := exec_of_jumpStackForm form s
  rcases jumpStack_cases (jump.symm.trans h) with ⟨empty, rfl⟩ | ⟨d, rest, cells, -, rfl⟩ | ⟨d, rest, -, -, -, rfl⟩
  · cases fault
    exact .noCell (List.mem_append_right [Instr.pop, .incStack, .decStack] form) (State.depth_of_nil empty)
  · cases fault
    exact .jump form (State.depth_of_cons cells)
  · exact absurd fault (State.status_ne_faulted sound c)

theorem jumpLiteral_status {taken : Bool} {target : Index} (h : jumpLiteral taken target s = .next t) :
    t.STATUS = s.STATUS := by
  cases next_inj ((jumpLiteral_eq taken target s).symm.trans h)
  rfl

theorem pushReg_fault (sound : s.STATUS.isFaulted = false) (h : execPushReg s = .next t)
    (fault : t.STATUS = .faulted c) : ListedFault .pushReg s c := by
  rcases execPushReg_cases h with ⟨full, rfl⟩ | ⟨-, rfl⟩
  · cases fault
    exact .pushReg (beq_iff_eq.mp full)
  · exact absurd fault (State.status_ne_faulted sound c)

theorem pushLit_fault {imm : Index} (sound : s.STATUS.isFaulted = false) (h : execPushLit imm s = .next t)
    (fault : t.STATUS = .faulted c) : ListedFault (.pushLit imm) s c := by
  rcases execPushLit_cases h with ⟨full, rfl⟩ | ⟨-, rfl⟩
  · cases fault
    exact .pushLit imm (beq_iff_eq.mp full)
  · exact absurd fault (State.status_ne_faulted sound c)

theorem pop_fault (sound : s.STATUS.isFaulted = false) (h : execPop s = .next t) (fault : t.STATUS = .faulted c) :
    ListedFault .pop s c := by
  rcases execPop_cases h with ⟨empty, rfl⟩ | ⟨v, rest, -, rfl⟩
  · cases fault
    exact .noCell List.mem_cons_self (State.depth_of_nil empty)
  · exact absurd fault (State.status_ne_faulted sound c)

theorem cmpStack_fault (sound : s.STATUS.isFaulted = false) (h : execCmpStack s = .next t)
    (fault : t.STATUS = .faulted c) : ListedFault .cmpStack s c := by
  rcases execCmpStack_cases h with ⟨low, rfl⟩ | ⟨b, a, rest, -, rfl⟩
  · cases fault
    exact .noPair (.inr rfl) low
  · exact absurd fault (State.status_ne_faulted sound c)

end Operators

/-! ## Every instruction -/

/-- Instruction by instruction: an executing form by its operator, and a shape of another class by its list. -/
theorem exec_listedFault {i : Instr} {s t : State} {c : FaultCause} (sound : s.STATUS.isFaulted = false)
    (h : exec i s = .next t) (fault : t.STATUS = .faulted c) : ListedFault i s c := by
  have kept (same : t.STATUS = s.STATUS) : ListedFault i s c :=
    absurd (same.symm.trans fault) (State.status_ne_faulted sound c)
  cases i with
  | addStack => exact BinaryOperator.add.stack_fault sound h fault
  | addReg => exact BinaryOperator.add.reg_fault sound h fault
  | subStack => exact BinaryOperator.sub.stack_fault sound h fault
  | subReg => exact BinaryOperator.sub.reg_fault sound h fault
  | imulStack => exact BinaryOperator.imul.stack_fault sound h fault
  | imulReg => exact BinaryOperator.imul.reg_fault sound h fault
  | idivStack => exact BinaryOperator.idiv.stack_fault sound h fault
  | idivReg => exact BinaryOperator.idiv.reg_fault sound h fault
  | andStack => exact BinaryOperator.and.stack_fault sound h fault
  | andReg => exact BinaryOperator.and.reg_fault sound h fault
  | orStack => exact BinaryOperator.or.stack_fault sound h fault
  | orReg => exact BinaryOperator.or.reg_fault sound h fault
  | xorStack => exact BinaryOperator.xor.stack_fault sound h fault
  | xorReg => exact BinaryOperator.xor.reg_fault sound h fault
  | shlStack => exact BinaryOperator.shl.stack_fault sound h fault
  | shlReg => exact BinaryOperator.shl.reg_fault sound h fault
  | shrStack => exact BinaryOperator.shr.stack_fault sound h fault
  | shrReg => exact BinaryOperator.shr.reg_fault sound h fault
  | incStack => exact UnaryOperator.inc.stack_fault sound h fault
  | decStack => exact UnaryOperator.dec.stack_fault sound h fault
  | jeStack | jmaStack | jneStack => exact jumpStackForm_fault (by decide) sound h fault
  | pushReg => exact pushReg_fault sound h fault
  | pushLit => exact pushLit_fault sound h fault
  | pop => exact pop_fault sound h fault
  | cmpStack => exact cmpStack_fault sound h fault
  | incReg => exact kept (UnaryOperator.inc.reg_status h)
  | decReg => exact kept (UnaryOperator.dec.reg_status h)
  | jeLit | jmaLit | jneLit => exact kept (jumpLiteral_status h)
  | cmpReg | skip =>
    cases next_inj h
    exact kept rfl
  | pushFm5 | jeFm5 | jmaFm5 | jneFm5 =>
    cases next_inj h
    cases fault
    exact .badlit (by decide)
  | addFm1 | addFm2 | subFm1 | subFm2 | imulFm1 | imulFm2 | idivFm1 | idivFm2 | andFm1 | andFm2 | orFm1 | orFm2 | xorFm1
  | xorFm2 | shlFm1 | shlFm2 | shrFm1 | shrFm2 | cmpFm1 =>
    cases next_inj h
    cases fault
    exact .incomplete (by decide)
  | _ =>
    cases next_inj h
    cases fault
    exact .arity (by decide)

/-! ## The statements -/

/-- Settles O11: an instruction, a step and a host `Execute` end FAULTED only by the exception entry, which changes STATUS
alone; the fields of the word are those of STATUS, and a core that is not RUNNING takes no step. -/
theorem faultsArePrecise : Obligations.FaultsArePrecise := by
  refine ⟨fun i s t c => exec_fault, fun s t c => step_fault, fun w s t c idle h => ?_, fun s c fault => ?_⟩
  · have sound : s.STATUS.isFaulted = false := by rw [idle]; rfl
    exact executeWord_fault sound ((hostOp_execute idle w).symm.trans h)
  · obtain ⟨state, cause⟩ := State.statusWord_fields fault
    have stopped : s.STATUS ≠ .running := by rw [fault]; nofun
    exact ⟨state, cause, step_stopped stopped⟩

/-- Settles O13: the rows of the table (`exec_listedFault`), read by cause. -/
theorem faultsComeFromTheInstructionsListed : Obligations.FaultsComeFromTheInstructionsListed := by
  intro i s t c sound h fault
  cases exec_listedFault sound h fault with
  | badlit shape => exact shape
  | incomplete shape => exact shape
  | arity shape => exact shape
  | noCell form empty => exact .inl ⟨form, empty⟩
  | noPair form low => exact .inr ⟨form, low⟩
  | pushReg full => exact ⟨.inl rfl, full⟩
  | pushLit imm full => exact ⟨.inr ⟨imm, rfl⟩, full⟩
  | idivStack pair => exact .inl ⟨rfl, pair⟩
  | idivReg rs1 rs2 rd zero => exact .inr ⟨rs1, rs2, rd, rfl, zero⟩
  | jump form cell => exact ⟨form, cell⟩
  | shiftStack form pair => exact .inl ⟨form, pair⟩
  | shiftReg rs1 rs2 rd form negative => exact .inr ⟨rs1, rs2, rd, form, negative⟩

end Sys2Proof.Machine

/-! The host's `Reset` (spec/70_reset_and_hazards.md R127) and the boot sequence (R128, R129): the `WriteIMEM` operations of a
boot are one load of instruction memory, whose words read back from index 0 on. -/

namespace Sys2Proof.Machine

open Sys2Proof.Stated

/-! ## Reset (70_reset_and_hazards.md R127) -/

theorem hostOp_reset (s : State) : hostOp .reset s = .next s.hostReset := rfl

/-- IDLE with no cause is the all-zero STATUS word (10_state.md R23). -/
theorem State.statusWord_of_idle {s : State} (idle : s.STATUS = .idle) : s.statusWord = 0 := by
  rw [State.statusWord, idle]
  rfl

/-- Settles O51: each register has its reset value in `State.resetOf`, and `IMEM` and the parameters are those of the state the
host resets. -/
theorem hostResetSetsEveryRegister : Obligations.HostResetSetsEveryRegister := by
  refine ⟨fun s => ⟨s.hostReset, hostOp_reset s, ?_⟩, hostOp_reset State.reset⟩
  have registers : ∀ r, s.hostReset.x.get r = 0 := RegFile.get_zero s.N
  have pointer : s.hostReset.SP = -1 := State.SP_resetOf s.N s.SDEPTH s.SPW
  have word : s.hostReset.statusWord = 0 := State.statusWord_of_idle s.hostReset_STATUS
  exact ⟨registers, pointer, rfl, rfl, rfl, rfl, word, rfl, rfl, rfl, rfl, rfl⟩

/-! ## Loading instruction memory (70_reset_and_hazards.md R129 step 2) -/

/-- Instruction memory after the words are written to consecutive indices from `i` on, in order. -/
def Memory.load : Memory → Nat → List InstrWord → Memory
  | m, _, [] => m
  | m, i, w :: ws => (m.writeWord (BitVec.ofNat 16 i) w).load (i + 1) ws

/-- A load that stays below index 65536 leaves alone every index below its first word and past its last. -/
theorem Memory.readWord_load_outside {ws : List InstrWord} {j : Index} (m : Memory) {i : Nat}
    (fits : i + ws.length ≤ 65536) (outside : j.toNat < i ∨ i + ws.length ≤ j.toNat) :
    (m.load i ws).readWord j = m.readWord j := by
  induction ws generalizing m i with
  | nil => rfl
  | cons w ws ih =>
    rw [List.length_cons] at fits outside
    have other : j ≠ BitVec.ofNat 16 i := by
      rintro rfl
      rw [BitVec.toNat_ofNat] at outside
      omega
    rw [Memory.load, ih _ (by omega) (by omega), Memory.readWord_writeWord, if_neg other]

/-- A load that stays below index 65536 reads back word by word: no later write meets the index of an earlier word. -/
theorem Memory.readWord_load_inside {ws : List InstrWord} (m : Memory) {i k : Nat} (fits : i + ws.length ≤ 65536)
    (inside : k < ws.length) : (m.load i ws).readWord (BitVec.ofNat 16 (i + k)) = ws[k] := by
  induction ws generalizing m i k with
  | nil => exact absurd inside (Nat.not_lt_zero k)
  | cons w ws ih =>
    rw [List.length_cons] at fits inside
    cases k with
    | zero =>
      have below : (BitVec.ofNat 16 i).toNat < i + 1 := Nat.lt_succ_of_le (Nat.mod_le i _)
      have later : i + 1 + ws.length ≤ 65536 := by omega
      simp only [Memory.load, Nat.add_zero, Memory.readWord_load_outside _ later (.inl below), Memory.readWord_writeWord,
        if_true, List.getElem_cons_zero]
    | succ k =>
      have shifted : i + (k + 1) = i + 1 + k := by omega
      simp only [Memory.load, shifted, ih _ (by omega : i + 1 + ws.length ≤ 65536) (Nat.lt_of_succ_lt_succ inside),
        List.getElem_cons_succ]

/-! ## Sequences of host operations (70_reset_and_hazards.md R129) -/

/-- An accepted operation hands its next state to the operations after it. -/
theorem hostOps_cons {op : HostOp} {s t : State} (accepted : hostOp op s = .next t) (ops : List HostOp) :
    hostOps (op :: ops) s = hostOps ops t := by
  simp only [hostOps, accepted]

/-- In IDLE the operations that load a program are all accepted and do to instruction memory what `Memory.load` says. -/
theorem hostOps_loadOps {ws : List InstrWord} {i : Nat} {s : State} (idle : s.STATUS = .idle) (ops : List HostOp) :
    hostOps (loadOps i ws ++ ops) s = hostOps ops { s with IMEM := s.IMEM.load i ws } := by
  induction ws generalizing i s with
  | nil => rfl
  | cons w ws ih =>
    rw [loadOps, List.cons_append, hostOps_cons (hostOp_writeIMEM idle (BitVec.ofNat 16 i) w)]
    exact ih idle

/-- The two operations that end a boot set `PLEN` and STATUS. -/
theorem hostOps_writePLEN_start {s : State} (idle : s.STATUS = .idle) (len : Index) :
    hostOps [.writePLEN len, .start] s = .next { s with PLEN := len, STATUS := .running } :=
  (hostOps_cons (hostOp_writePLEN idle len) [.start]).trans (hostOps_cons (hostOp_start (s := { s with PLEN := len }) idle) [])

/-- The state the boot sequence ends in, for a program that can be loaded (10_state.md R22). -/
theorem boot_of_fits {words : List InstrWord} (fits : words.length ≤ Config.plenMax) (s : State) :
    boot words s = .next { s.hostReset with
      PLEN := BitVec.ofNat 16 words.length, STATUS := .running, IMEM := s.IMEM.load 0 words } := by
  rw [boot, if_pos fits, hostOps_cons (hostOp_reset s), hostOps_loadOps s.hostReset_STATUS]
  exact hostOps_writePLEN_start rfl _

/-- Settles O56: the boot sequence ends in `boot_of_fits`; at most 65535 words fit below index 65536, so each reads back at its
own index and the indices beyond them keep what they held. -/
theorem bootLoadsTheWordsAndStarts : Obligations.BootLoadsTheWordsAndStarts := by
  intro words s few
  have fits : 0 + words.length ≤ 65536 := by omega
  refine ⟨s.IMEM.load 0 words, boot_of_fits few s, fun k inside => ?_, fun j beyond => ?_⟩
  · simpa only [Nat.zero_add] using s.IMEM.readWord_load_inside fits inside
  · exact s.IMEM.readWord_load_outside fits (.inr (by omega))

end Sys2Proof.Machine
